-- ==== Sys2Proof/Word.lean ====
section
/-!
DEFINITION. The words the block handles and the names its checks report
(spec/00_scope.md R5 to R7, spec/10_state.md R16).
-/

namespace Sys2Proof

/-- A byte: an accumulator, a contribution, an entry of `OUT` (R7, R11, R31). -/
abbrev Byte := BitVec 8

/-! A pixel word, as the host supplies it and before any check, is written `Nat`: the unsigned number
`val(w)`. `PIXW` is open, and R5 lets a model take a pixel word as any natural number (log 1, DESIGN
CHOICE). -/

/-- The slice `w[hi:lo]` of R6, as a number; a slice whose `hi < lo` is empty and has value 0. -/
def slice (hi lo w : Nat) : Nat := (w >>> lo) % 2 ^ (hi + 1 - lo)

/-- The three failure causes, the values of the register `ERR` (R16, R111 to R113). -/
inductive Cause where
  /-- `LENGTH`: the sequence did not have 64 words (R111). -/
  | length
  /-- `CAST`: a word did not narrow to a byte (R112). -/
  | cast
  /-- `RANGE`: a narrowed word was not 0 to 3 (R113). -/
  | range
deriving DecidableEq, Repr, Inhabited

end Sys2Proof
end

