-- ==== Sys2Proof/Config.lean ====
section
/-!
DEFINITION. What is fixed for an instance (spec/00_scope.md R5) and the free values that stand for
what the spec calls undefined (spec/10_state.md R20, R21, R24; spec/93_implementation_defined.md U4).
-/

namespace Sys2Proof

/-- Pixels of a tile (R5). -/
def Config.tilePixels : Nat := 64

/-- Groups of pixels of a tile (R5). -/
def Config.groups : Nat := 8

/-- Pixels of a group (R5). -/
def Config.groupPixels : Nat := 8

/-- Bytes of an encoded tile (R5). -/
def Config.tileBytes : Nat := 16

/-- The constraint R5 puts on the open width of a pixel word. -/
def Config.pixwOk (pixw : Nat) : Bool := decide (2 ≤ pixw)

/-- The constraint R5 puts on the open width of a length. -/
def Config.lenwOk (lenw : Nat) : Bool := decide (7 ≤ lenw)

/-! The free values. Each is an unknown function of the index at which a RESET or START draws it:
it has no body, so no proof can tell what it is, and in particular not that it is 0 (R20).
Log 2 and log 3, DESIGN CHOICE. -/

/-- What `ERR` holds when a RESET or START has made it undefined (R21, R24). -/
opaque Config.freeErr : Nat → Cause

/-- What `LEN` holds when a RESET has made it undefined (R24). -/
opaque Config.freeLen : Nat → Nat

/-- What `LP` holds when a RESET or START has made it undefined (R21, R24). -/
opaque Config.freeLp : Nat → Byte

/-- What `HP` holds when a RESET or START has made it undefined (R21, R24). -/
opaque Config.freeHp : Nat → Byte

/-- What `X` holds when a RESET or START has made it undefined (R21, R24). -/
opaque Config.freeX : Nat → BitVec 3

/-- What `Y` holds when a RESET or START has made it undefined (R21, R24). -/
opaque Config.freeY : Nat → BitVec 3

end Sys2Proof
end

