-- ==== Sys2Proof/Machine/State.lean ====
section
/-!
DEFINITION. The state of one instance (spec/10_state.md R10), the host's actions and what they hand
back (spec/70_reset_and_hazards.md R140), the reasons a step can stop, and the state after RESET (R24, R131).
-/

namespace Sys2Proof.Machine

/-- The seven phases of R15. -/
inductive Phase where
  /-- Reset, no run yet. -/
  | idle
  /-- A run is accepted, its length not yet tested. -/
  | check
  /-- About to start group `X`. -/
  | clear
  /-- About to fetch and pack the pixel at `(X, Y)`. -/
  | acc
  /-- Group `X` is packed, its two bytes not yet appended. -/
  | emit
  /-- The run ended in success. -/
  | done
  /-- The run ended in failure. -/
  | fail
deriving DecidableEq, Repr

/-- The symbolic values of `STATUS` (R18). -/
inductive Status where
  | idle | busy | done | errLength | errCast | errRange
deriving DecidableEq, Repr

/-- The result of a run (R57): the bytes of the tile, or the cause and nothing else. -/
inductive Result where
  /-- `Ok(t)`. -/
  | ok (tile : List Byte)
  /-- `Err(K)`. -/
  | err (k : Cause)
deriving DecidableEq, Repr

/-- The host's four actions, the whole of R140's table. -/
inductive HostAction where
  /-- RESET (R130). -/
  | reset
  /-- START(len, grid) (R91); `len` is the length of `grid` by construction (U7). -/
  | start (grid : List Nat)
  /-- The observation of `STATUS` and `READY` (R98). -/
  | observe
  /-- READ_RESULT (R97). -/
  | readResult
deriving DecidableEq, Repr

/-- Whose turn it is: the two agents of R90 (log 5, DESIGN CHOICE). -/
inductive Turn where
  /-- The CORE takes the step its phase names, if there is one. -/
  | core
  /-- The host wants to take this action. -/
  | host (a : HostAction)
deriving DecidableEq, Repr

/-- What an action hands back to the host, the last column of R140. -/
inductive Answer where
  /-- `STATUS` and `READY`, from an observation. -/
  | status (st : Status) (ready : Bool)
  /-- The result, from READ_RESULT. -/
  | result (r : Result)
deriving DecidableEq, Repr

/-- A buffer: a list of (index, entry) pairs, indices strictly rising. An unlisted entry is undefined
(R20) and has no value (log 4). `Memory Byte` is a list of `Host.Cell`. -/
abbrev Memory (α : Type) := List (Nat × α)

/-- The indices rise strictly from `lo` on and stay below `size`. -/
def Memory.wfFrom {α : Type} (size : Nat) : Nat → Memory α → Bool
  | _, [] => true
  | lo, (a, _) :: rest => decide (lo ≤ a) && decide (a < size) && Memory.wfFrom size (a + 1) rest

/-- The canonical form of a buffer of `size` entries: equal buffers are equal lists. -/
def Memory.wf {α : Type} (size : Nat) (m : Memory α) : Bool := Memory.wfFrom size 0 m

/-- The state: the nine elements of R10 and, below them, the model's own three fields. -/
structure State where
  /-- `PHASE` (R15). -/
  phase : Phase
  /-- `ERR` (R16). -/
  err : Cause
  /-- `LEN` (R17), as a natural number (log 1). -/
  len : Nat
  /-- `PIX[0..63]` (R30). -/
  pix : Memory Nat
  /-- `LP` (R11). -/
  lp : Byte
  /-- `HP` (R11). -/
  hp : Byte
  /-- `X` (R13). -/
  x : BitVec 3
  /-- `Y` (R13). -/
  y : BitVec 3
  /-- `OUT[0..15]` (R31). -/
  out : Memory Byte
  /-- The model's own: the index at which the next RESET or START draws its free values (log 3). -/
  fresh : Nat
  /-- The model's own: the turns to come, oldest first; when there is none the CORE moves (log 5). -/
  turns : List Turn
  /-- The model's own: what the host has been handed back, oldest first (log 6). -/
  answers : List Answer
deriving DecidableEq, Repr

/-- The reasons the machine can stop with a fault: there are none. A failure of a run is an ordinary
result (R110) and "The block has no behaviour that halts or wedges it"
(spec/93_implementation_defined.md). -/
inductive Fault : Type where
deriving DecidableEq, Repr

/-- The reasons a step is refused. -/
inductive Refusal where
  /-- An instruction without a meaning; raised by an arm of `exec` only, and by none now. Safe. -/
  | notModelled (mnemonic : String)
  /-- ACC was to fetch an entry of `PIX` that is undefined; raised by `coreAcc`. U4: `refuse` on read.
  No run reaches it (R22). Safe: nothing follows from a step that is not taken (log 4). -/
  | undefinedPixel
  /-- READ_RESULT was to read an entry of `OUT` that is undefined; raised by `hostReadResult`. U4:
  `refuse` on read. No run reaches it (R22). Safe (log 4). -/
  | undefinedOutput
deriving DecidableEq, Repr

/-- The machine right after RESET (R24, R131): `PHASE` is `IDLE`; every register the spec leaves
undefined holds the free value of index 0 (log 2); no entry of a buffer is defined. -/
def State.reset : State where
  phase := .idle
  err := Config.freeErr 0
  len := Config.freeLen 0
  pix := []
  lp := Config.freeLp 0
  hp := Config.freeHp 0
  x := Config.freeX 0
  y := Config.freeY 0
  out := []
  fresh := 1
  turns := []
  answers := []

end Sys2Proof.Machine
end

