-- ==== Sys2Proof/Machine/Flags.lean ====
section
/-!
DEFINITION. `STATUS` and `READY`, the two functions of `PHASE` and `ERR` the host can observe
(spec/10_state.md R18). The block has no other flag (R16).
-/

namespace Sys2Proof.Machine

/-- `READY` as a function of `PHASE` (R18): 1 in the ready phases of R15. -/
def Phase.ready : Phase → Bool
  | .idle => true
  | .check => false
  | .clear => false
  | .acc => false
  | .emit => false
  | .done => true
  | .fail => true

/-- The `STATUS` that names a cause (R18). -/
def Cause.status : Cause → Status
  | .length => .errLength
  | .cast => .errCast
  | .range => .errRange

/-- `READY` (R18). -/
def State.ready (s : State) : Bool := s.phase.ready

/-- `STATUS` (R18). -/
def State.status (s : State) : Status :=
  match s.phase with
  | .idle => .idle
  | .check => .busy
  | .clear => .busy
  | .acc => .busy
  | .emit => .busy
  | .done => .done
  | .fail => Cause.status s.err

/-- The numeric code of `STATUS`, a 3-bit field (R18). The spec's own choice, not the source's (D6, log 11). -/
def Status.code : Status → BitVec 3
  | .idle => 0
  | .busy => 1
  | .done => 2
  | .errLength => 4
  | .errCast => 5
  | .errRange => 6

end Sys2Proof.Machine
end

