-- ==== Sys2Proof/Syntax.lean ====
section
/-!
DEFINITION. The instructions: the four legal pixel words (spec/30_encoding.md R53,
spec/opcode_table.json). They have no operand: `LP` and `HP` are implicit (spec/41_accumulator.md section 3).
-/

namespace Sys2Proof

/-- One constructor per row of the opcode table. -/
inductive Instr where
  /-- PX0, pixel value 0 (R82). -/
  | px0
  /-- PX1, pixel value 1 (R83). -/
  | px1
  /-- PX2, pixel value 2 (R84). -/
  | px2
  /-- PX3, pixel value 3 (R85). -/
  | px3
deriving DecidableEq, Repr

/-- The mnemonic of R53 and R59. -/
def Instr.mnemonic : Instr → String
  | .px0 => "PX0"
  | .px1 => "PX1"
  | .px2 => "PX2"
  | .px3 => "PX3"

/-- The 2-bit `code` of the word that spells the instruction (R53). -/
def Instr.code : Instr → BitVec 2
  | .px0 => 0b00
  | .px1 => 0b01
  | .px2 => 0b10
  | .px3 => 0b11

end Sys2Proof
end

