-- ==== Sys2Proof/WellFormed.lean ====
section
/-!
DEFINITION. The checks on what the host hands over: that a word fits the instance's width, that a
length does, and what a valid grid is (spec/00_scope.md R5 and R9, spec/30_encoding.md R53 and R58,
spec/93_implementation_defined.md U7).
-/

namespace Sys2Proof

/-- The word is one of the `2^PIXW` words of an instance of width `pixw` (R51). -/
def wordFits (pixw : Nat) (w : Nat) : Bool := decide (w < 2 ^ pixw)

/-- The word is one of the four legal ones (R53). -/
def wordLegal (w : Nat) : Bool := decide (w ≤ 3)

/-- The instruction has a word in an instance of width `pixw`: the width is one R5 allows and the
instruction's code is a number of that many bits. -/
def Instr.wellFormed (pixw : Nat) (i : Instr) : Bool :=
  Config.pixwOk pixw && wordFits pixw i.code.toNat

/-- The length is one the host can express in `lenw` bits (R91, N17). -/
def lengthFits (lenw len : Nat) : Bool := Config.lenwOk lenw && decide (len < 2 ^ lenw)

/-- START's argument as an instance of widths `pixw` and `lenw` takes it (R91, U7): its length and each
of its words fit. That `len` is the number of words needs no check: it is the list's length. -/
def startFits (pixw lenw : Nat) (grid : List Nat) : Bool :=
  lengthFits lenw grid.length && grid.all (wordFits pixw)

/-- A grid that encodes without failure: 64 words, each legal (R53, R58, R104). -/
def validGrid (grid : List Nat) : Bool :=
  grid.length == Config.tilePixels && grid.all wordLegal

end Sys2Proof
end

