-- ==== Sys2Proof/Decode.lean ====
section
/-!
DEFINITION. The pixel word's fields and classes, the two checks of the decoder, the decoder from a
word to an instruction, and the encoder (spec/30_encoding.md R51 to R54, spec/40_pixel_decode.md R70 to R74).
-/

namespace Sys2Proof

/-- The field `code = w[1:0]` of R51. -/
def codeField (w : Nat) : Nat := slice 1 0 w

/-- The field `rz = w[min(PIXW,8)-1:2]` of R51; empty, so 0, when `PIXW < 3`. -/
def rzField (pixw : Nat) (w : Nat) : Nat := slice (min pixw 8 - 1) 2 w

/-- The field `cz = w[PIXW-1:8]` of R51; empty, so 0, when `PIXW < 9`. -/
def czField (pixw : Nat) (w : Nat) : Nat := slice (pixw - 1) 8 w

/-- The three classes of pixel words of R54. -/
inductive WordClass where
  /-- One of the four instructions. -/
  | legal
  /-- 4 to 255: fetching it fails the run with `RANGE`. -/
  | outOfRange
  /-- 256 and above: fetching it fails the run with `CAST`. -/
  | notNarrowable
deriving DecidableEq, Repr

/-- The class a word is in, by its value (R54). -/
def classify (w : Nat) : WordClass :=
  if w ≤ 3 then .legal else if w ≤ 255 then .outOfRange else .notNarrowable

/-- Narrowing (R71): the byte of the same value, or `CAST`; never a truncation. -/
def narrow8 (w : Nat) : Except Cause Byte :=
  if w > 255 then .error .cast else .ok (BitVec.ofNat 8 w)

/-- The range check on the narrowed byte (R72): its 2-bit code, or `RANGE`; never a mask. -/
def inRange (v : Byte) : Except Cause (BitVec 2) :=
  if v.toNat > 3 then .error .range else .ok (v.extractLsb' 0 2)

/-- The instruction a code spells (R53). -/
def instrOfCode (c : BitVec 2) : Instr :=
  if c = 0b00 then .px0 else if c = 0b01 then .px1 else if c = 0b10 then .px2 else .px3

/-- The decoder from a pixel word to an instruction (R53, R74): narrowing, then range, then the map;
the first check that fails names the cause. Total on every word. -/
def decode (w : Nat) : Except Cause Instr :=
  match narrow8 w with
  | .error k => .error k
  | .ok v =>
    match inRange v with
    | .error k => .error k
    | .ok c => .ok (instrOfCode c)

/-- The word of an instruction (R53): its code, every other bit 0. -/
def encode (i : Instr) : Nat := i.code.toNat

/-- The instruction the decoder reads from a pixel word whose low `nbits` bits are those of `w` and
whose bits at or above `nbits` are 0 (spec/opcode_table.json; log 10). -/
def decodeTableWord (nbits w : Nat) : Option Instr :=
  match decode (w % 2 ^ nbits) with
  | .ok i => some i
  | .error _ => none

end Sys2Proof
end

