-- ==== Sys2Proof/Machine/Operands.lean ====
section
/-!
DEFINITION. The operands of a pixel step: the contribution pair (spec/40_pixel_decode.md R73, R74), the
accumulator update (spec/41_accumulator.md R80) and the indices into the two buffers
(spec/20_memory.md R32, R33; spec/42_tile_sequencer.md R105).
-/

namespace Sys2Proof.Machine

/-- A contribution byte: the most-significant-bit position when set, 0 when clear (R55). -/
def contribution (b : Bool) : Byte := if b then 0x80 else 0x00

/-- The bit-pair map of R73: bit 0 of the code to the low plane, bit 1 to the high plane. -/
def bitPair (c : BitVec 2) : Byte × Byte := (contribution (c.getLsbD 0), contribution (c.getLsbD 1))

/-- The whole decoder of R74, from a word to its contribution pair or the first cause found. -/
def decodePair (w : Nat) : Except Cause (Byte × Byte) :=
  match narrow8 w with
  | .error k => .error k
  | .ok v =>
    match inRange v with
    | .error k => .error k
    | .ok c => .ok (bitPair c)

/-- The accumulator update of R80: logical shift right by one, then OR the contribution. -/
def acc (a c : Byte) : Byte := (a >>> 1) ||| c

/-- The index of the pixel at `(X, Y)`: the concatenation of R13 and R105, `8*X + Y`. -/
def pixIndex (x y : BitVec 3) : BitVec 6 := x ++ y

/-- The index of the low-plane byte of group `X`: the concatenation of R105, `2*X`. -/
def lowIndex (x : BitVec 3) : BitVec 4 := x ++ 0#1

/-- The index of the high-plane byte of group `X`: the concatenation of R105, `2*X + 1`. -/
def highIndex (x : BitVec 3) : BitVec 4 := x ++ 1#1

end Sys2Proof.Machine
end

