-- ==== Sys2Proof/Machine/Ops.lean ====
section
/-!
DEFINITION. The named operations over the buffers and the registers: reading and writing a buffer
(spec/20_memory.md R37, R38), the double update of the accumulators (spec/41_accumulator.md R80), the action
`fail K` (spec/60_exceptions.md R114), making a run's elements undefined (spec/10_state.md R21) and handing the
host an answer. There is no return from a failure to define beside `fail` (R118).
-/

namespace Sys2Proof.Machine

/-- The entry at index `i`, if it is defined. -/
def Memory.read {α : Type} : Memory α → Nat → Option α
  | [], _ => none
  | (a, v) :: rest, i => if a = i then some v else Memory.read rest i

/-- The buffer with `v` at index `i`, every other entry as it was. -/
def Memory.write {α : Type} : Memory α → Nat → α → Memory α
  | [], i, v => [(i, v)]
  | (a, u) :: rest, i, v =>
    if i < a then (i, v) :: (a, u) :: rest
    else if i = a then (i, v) :: rest
    else (a, u) :: Memory.write rest i v

/-- The buffer that holds the entries of a list at the indices from `i` on, and nothing else. -/
def Memory.ofList {α : Type} : Nat → List α → Memory α
  | _, [] => []
  | i, v :: rest => (i, v) :: Memory.ofList (i + 1) rest

/-- The `n` entries from index `i` on, if every one of them is defined. -/
def Memory.readList {α : Type} (m : Memory α) : Nat → Nat → Option (List α)
  | _, 0 => some []
  | i, n + 1 =>
    match m.read i, Memory.readList m (i + 1) n with
    | some v, some rest => some (v :: rest)
    | _, _ => none

/-- `PixRead(i)` (R37): one whole entry, no side effect; no value when the entry is undefined. -/
def State.pixRead (s : State) (i : BitVec 6) : Option Nat := s.pix.read i.toNat

/-- `OutWrite(j, b)` (R38): `OUT[j] <- b` and nothing else. -/
def State.outWrite (s : State) (j : BitVec 4) (b : Byte) : State :=
  { s with out := s.out.write j.toNat b }

/-- The update of both accumulators, each with its own contribution (R80, R93). -/
def State.accumulate (s : State) (lo hi : Byte) : State :=
  { s with lp := acc s.lp lo, hp := acc s.hp hi }

/-- `fail K` (R114): the run ends in failure; nothing else is written and nothing is saved. -/
def State.fail (s : State) (k : Cause) : State := { s with err := k, phase := .fail }

/-- RESET and START make every element of the previous run undefined (R21, R24): the registers take
free values, `OUT` loses every entry (log 3). -/
def State.undefineRun (s : State) : State :=
  { s with
    err := Config.freeErr s.fresh
    lp := Config.freeLp s.fresh
    hp := Config.freeHp s.fresh
    x := Config.freeX s.fresh
    y := Config.freeY s.fresh
    out := []
    fresh := s.fresh + 1 }

/-- The host is handed an answer; the block is not changed (R98, R97). -/
def State.answer (s : State) (a : Answer) : State := { s with answers := s.answers ++ [a] }

end Sys2Proof.Machine
end

