-- ==== Sys2Proof/Machine/HostActions.lean ====
section
/-!
DEFINITION. The host's actions: RESET (spec/70_reset_and_hazards.md R130), START (spec/42_tile_sequencer.md R91),
the observation of `STATUS` and `READY` (R98), READ_RESULT (R97), and when each is enabled (R140).
-/

namespace Sys2Proof.Machine

/-- RESET (R130): `PHASE` is `IDLE`, everything else is undefined. -/
def hostReset (s : State) : State :=
  { s.undefineRun with phase := .idle, len := Config.freeLen s.fresh, pix := [] }

/-- START(len, grid) (R91): the length and the first 64 words are taken by value; words beyond the
64th are not stored (D16); what belonged to the previous run is undefined (R21). -/
def hostStart (grid : List Nat) (s : State) : State :=
  { s.undefineRun with
    phase := .check
    len := grid.length
    pix := Memory.ofList 0 (grid.take Config.tilePixels) }

/-- The observation of `STATUS` and `READY` (R98): the host gets both, the block is not changed. -/
def hostObserve (s : State) : State := s.answer (.status s.status s.ready)

/-- The sixteen bytes of `OUT` in index order (R97), if every one is defined. -/
def State.tile (s : State) : Option (List Byte) := s.out.readList 0 Config.tileBytes

/-- The result there is to read (R57, R97): in `DONE` the tile, in `FAIL` the cause, else none. -/
def State.result (s : State) : Option Result :=
  match s.phase with
  | .idle => none
  | .check => none
  | .clear => none
  | .acc => none
  | .emit => none
  | .done => s.tile.map Result.ok
  | .fail => some (.err s.err)

/-- READ_RESULT (R97): the host gets the result, the block is not changed. An undefined entry of `OUT`
is not read (U4, log 4). -/
def hostReadResult (s : State) : Host.Outcome State Fault Refusal :=
  match s.result with
  | some r => .next (s.answer (.result r))
  | none => .refused .undefinedOutput

/-- When an action is enabled, the second column of R140. -/
def HostAction.enabled (a : HostAction) (p : Phase) : Bool :=
  match a with
  | .reset => true
  | .start _ => p.ready
  | .observe => true
  | .readResult => p == .done || p == .fail

/-- The effect of an action that is enabled, the fourth column of R140. -/
def hostStep (a : HostAction) (s : State) : Host.Outcome State Fault Refusal :=
  match a with
  | .reset => .next (hostReset s)
  | .start grid => .next (hostStart grid s)
  | .observe => .next (hostObserve s)
  | .readResult => hostReadResult s

end Sys2Proof.Machine
end

