-- ==== Sys2Proof/Machine/Pixel.lean ====
section
/-!
DEFINITION. The four pixel instructions (spec/41_accumulator.md R82 to R85): the effect, on `LP` and `HP`, of an
ACC step whose fetched word decoded to that code. The fetch and the movement of `Y` and `PHASE` are the ACC
step's own (R93, Machine/Sequencer.lean; log 8).
-/

namespace Sys2Proof.Machine

/-- PX0 (R82): shift both accumulators, set neither bit 7. -/
def execPx0 (s : State) : Host.Outcome State Fault Refusal := .next (s.accumulate 0x00 0x00)

/-- PX1 (R83): shift both accumulators, set bit 7 of `LP`. -/
def execPx1 (s : State) : Host.Outcome State Fault Refusal := .next (s.accumulate 0x80 0x00)

/-- PX2 (R84): shift both accumulators, set bit 7 of `HP`. -/
def execPx2 (s : State) : Host.Outcome State Fault Refusal := .next (s.accumulate 0x00 0x80)

/-- PX3 (R85): shift both accumulators, set bit 7 of both. -/
def execPx3 (s : State) : Host.Outcome State Fault Refusal := .next (s.accumulate 0x80 0x80)

end Sys2Proof.Machine
end

