-- ==== Sys2Proof/Machine/Dispatch.lean ====
section
/-! DEFINITION. One arm per constructor of `Instr`. -/

namespace Sys2Proof.Machine

def exec (i : Instr) (s : State) : Host.Outcome State Fault Refusal :=
  match i with
  | .px0 => Sys2Proof.Machine.execPx0 s
  | .px1 => Sys2Proof.Machine.execPx1 s
  | .px2 => Sys2Proof.Machine.execPx2 s
  | .px3 => Sys2Proof.Machine.execPx3 s

end Sys2Proof.Machine
end

