-- ==== Sys2Proof/Machine/Sequencer.lean ====
section
/-!
DEFINITION. The CORE's four steps CHECK, CLEAR, ACC and EMIT and their union, guarded by `PHASE`
(spec/42_tile_sequencer.md R92 to R94, spec/41_accumulator.md R81 and R88).
-/

namespace Sys2Proof.Machine

/-- CHECK (R92): the length is tested before any pixel is looked at. -/
def coreCheck (s : State) : State :=
  if s.len ≠ Config.tilePixels then s.fail .length else { s with x := 0, phase := .clear }

/-- CLEAR (R81): a group starts with both accumulators 0, at position 7. -/
def coreClear (s : State) : State := { s with lp := 0x00, hp := 0x00, y := 7, phase := .acc }

/-- What an ACC step does after the instruction's own effect (R93): the position moves down, or the
group ends. -/
def State.finishPixel (s : State) : State :=
  if s.y = 0 then { s with phase := .emit } else { s with y := s.y - 1 }

/-- ACC (R93): fetch the word at `(X, Y)`, decode it, and either fail with the decoder's cause or run
the instruction and move on. A word that is undefined is not read (U4, log 4). -/
def coreAcc (s : State) : Host.Outcome State Fault Refusal :=
  match s.pixRead (pixIndex s.x s.y) with
  | none => .refused .undefinedPixel
  | some w =>
    match decode w with
    | .error k => .next (s.fail k)
    | .ok i =>
      match exec i s with
      | .next t => .next t.finishPixel
      | .fault r => .fault r
      | .refused r => .refused r

/-- EMIT (R88): the two bytes of the group go to `OUT`, and the next group begins or the run ends. -/
def coreEmit (s : State) : State :=
  let t := (s.outWrite (lowIndex s.x) s.lp).outWrite (highIndex s.x) s.hp
  if s.x = 7 then { t with phase := .done } else { t with x := s.x + 1, phase := .clear }

/-- The CORE's step relation (R94): the one step the phase names. In a ready phase none is enabled and
the block waits, unchanged (R96, R122). -/
def coreStep (s : State) : Host.Outcome State Fault Refusal :=
  match s.phase with
  | .idle => .next s
  | .check => .next (coreCheck s)
  | .clear => .next (coreClear s)
  | .acc => coreAcc s
  | .emit => .next (coreEmit s)
  | .done => .next s
  | .fail => .next s

end Sys2Proof.Machine
end

