-- ==== Sys2Proof/Machine/Turns.lean ====
section
/-!
DEFINITION. Which agent moves next (spec/42_tile_sequencer.md R90), and placing a pixel word where the next ACC
step fetches it.
-/

namespace Sys2Proof.Machine

/-- One turn (log 5). With no turn listed, or with the CORE's turn next, the CORE moves. A host action
that is enabled is taken; one whose guard is false is not: the request stands, the block sees nothing of
it, and the CORE moves (R134, U9; log 7). -/
def turnStep (s : State) : Host.Outcome State Fault Refusal :=
  match s.turns with
  | [] => coreStep s
  | .core :: rest => coreStep { s with turns := rest }
  | .host a :: rest =>
    if a.enabled s.phase then hostStep a { s with turns := rest } else coreStep s

/-- The word is the entry of `PIX` at `(X, Y)`. -/
def State.placeWord (s : State) (w : Nat) : State :=
  { s with pix := s.pix.write (pixIndex s.x s.y).toNat w }

/-- The block stands before the ACC step of a tile's first pixel, as a START of 64 words, CHECK and
CLEAR leave `PHASE`, `LEN`, `X` and `Y`; a block in `ACC` already stands before one. -/
def State.beforePixel (s : State) : State :=
  if s.phase = .acc then s
  else { s with phase := .acc, len := Config.tilePixels, x := 0, y := 7 }

end Sys2Proof.Machine
end

