-- ==== Sys2Proof/Machine/Step.lean ====
section
/-!
DEFINITION. One step of the machine, and the state whose very next step fetches and runs a given word.
-/

namespace Sys2Proof.Machine

/-- One step: the turn of the agent that moves next (R90, R94, R140). -/
def step (s : State) : Host.Outcome State Fault Refusal := turnStep s

/-- `s` with the word of `nbits` bits placed as the next one the CORE fetches, the block before that
ACC step and the CORE's turn next (log 10). -/
def State.withFetchWord (s : State) (nbits w : Nat) : State :=
  { s.beforePixel.placeWord (w % 2 ^ nbits) with turns := .core :: s.turns }

end Sys2Proof.Machine
end

