-- ==== Sys2Proof/Machine/Instances.lean ====
section
/-!
DEFINITION. Several instances of the block: independent copies of the machine, which share nothing
(spec/60_exceptions.md R127, D17).
-/

namespace Sys2Proof.Machine

/-- Instance `k` takes a step, the others stand still. Where there is no instance `k`, nothing moves. -/
def stepInstance (k : Nat) (ms : List State) : Host.Outcome (List State) Fault Refusal :=
  match ms[k]? with
  | none => .next ms
  | some m =>
    match step m with
    | .next m' => .next (ms.set k m')
    | .fault r => .fault r
    | .refused r => .refused r

end Sys2Proof.Machine
end

