-- ==== Sys2Proof/Machine/Tile.lean ====
section
/-!
DEFINITION. The operation as a function, the normative reference of the spec
(spec/42_tile_sequencer.md R99). It is not made of the machine's steps; that the steps compute it is a claim (R100).
-/

namespace Sys2Proof.Machine

/-- Step 2b of R99 for group `x`: positions `n - 1` down to 0, from the accumulators `lp`, `hp`. -/
def packPositions (grid : List Nat) (x : Nat) : Nat → Byte → Byte → Except Cause (Byte × Byte)
  | 0, lp, hp => .ok (lp, hp)
  | y + 1, lp, hp =>
    match decodePair (grid.getD (8 * x + y) 0) with
    | .error k => .error k
    | .ok (lo, hi) => packPositions grid x y ((lp >>> 1) ||| lo) ((hp >>> 1) ||| hi)

/-- Step 2 of R99: the next `n` groups, from group `x` up, appended to `out`; a failure drops `out`. -/
def packGroups (grid : List Nat) : Nat → Nat → List Byte → Result
  | 0, _, out => .ok out
  | n + 1, x, out =>
    match packPositions grid x Config.groupPixels 0x00 0x00 with
    | .error k => .err k
    | .ok (lp, hp) => packGroups grid n (x + 1) (out ++ [lp, hp])

/-- `encode_tile(len, grid)` of R99, `len` being the length of `grid`. -/
def encodeTile (grid : List Nat) : Result :=
  if grid.length ≠ Config.tilePixels then .err .length
  else packGroups grid Config.groups 0 []

end Sys2Proof.Machine
end

