-- ==== Sys2Proof/Safety.lean ====
section
/-!
DEFINITION. The terms claims are stated in: frames, the fetch order (spec/10_state.md R14), the closed forms of a
plane byte (spec/41_accumulator.md R87, R89; spec/20_memory.md R35), the first bad pixel
(spec/60_exceptions.md R115), the length of a run (spec/42_tile_sequencer.md R100), and the invariant of the machine.
-/

namespace Sys2Proof.Machine

/-- The two states hold the same entries of `OUT`. -/
def SameOut (s t : State) : Prop := ∀ j, t.out.read j = s.out.read j

/-- The two states hold the same input: `LEN` and every entry of `PIX`. -/
def SameInput (s t : State) : Prop := t.len = s.len ∧ ∀ i, t.pix.read i = s.pix.read i

/-- The two states agree on the model's own fields. -/
def SameHost (s t : State) : Prop :=
  t.turns = s.turns ∧ t.answers = s.answers ∧ t.fresh = s.fresh

/-- The frame of a pixel instruction (spec/41_accumulator.md section 3): all but `LP` and `HP` is unchanged. -/
def SameButAccumulators (s t : State) : Prop :=
  t.phase = s.phase ∧ t.err = s.err ∧ t.x = s.x ∧ t.y = s.y ∧
    SameInput s t ∧ SameOut s t ∧ SameHost s t

/-- The block as the host's own fields are left aside: the nine elements of R10 are the same. -/
def SameBlock (s t : State) : Prop :=
  t.phase = s.phase ∧ t.err = s.err ∧ t.x = s.x ∧ t.y = s.y ∧ t.lp = s.lp ∧ t.hp = s.hp ∧
    SameInput s t ∧ SameOut s t

/-- `t` is `s` as the CORE finds it when it is to move: no turn is listed, or the CORE's is next and is used up. -/
def CoreMoves (s t : State) : Prop :=
  (s.turns = [] ∧ t = s) ∨ ∃ rest, s.turns = .core :: rest ∧ t = { s with turns := rest }

/-- The pairs of phases of R15's table, a step of the CORE or of the host; RESET leads to `IDLE` from
anywhere (R130). -/
def Phase.successors : Phase → List Phase
  | .idle => [.idle, .check]
  | .check => [.idle, .clear, .fail]
  | .clear => [.idle, .acc]
  | .acc => [.idle, .acc, .emit, .fail]
  | .emit => [.idle, .clear, .done]
  | .done => [.idle, .done, .check]
  | .fail => [.idle, .fail, .check]

/-- `n` steps of the machine, stopping at the first refusal: the host's own `run`. -/
def State.run (s : State) (n : Nat) : Host.Outcome State Fault Refusal :=
  Host.Core.run Sys2Proof.core n s

/-- The linear index of the `k`-th pixel of the fetch order, `k` from 0: groups ascending, positions
descending (R14). -/
def fetchIndex (k : Nat) : Nat := 8 * (k / 8) + (7 - k % 8)

/-- The word fetched as the `k`-th, `k` from 0. -/
def fetched (g : List Nat) (k : Nat) : Nat := g.getD (fetchIndex k) 0

/-- The first `n` words in fetch order are legal. -/
def LegalUpTo (g : List Nat) (n : Nat) : Prop := ∀ k < n, fetched g k ≤ 3

/-- Where in the fetch order, from 0, the first bad word stands, if there is one (R115). -/
def firstBad (g : List Nat) : Option Nat := (List.range 64).find? fun k => decide (3 < fetched g k)

/-- The cause a bad word is reported as (R115 (3)). -/
def causeOf (w : Nat) : Cause := if w > 255 then .cast else .range

/-- The number of CORE steps of the run of `START(len, g)`, R100's table. It is a fuel bound, not timing (R138). -/
def runSteps (g : List Nat) : Nat :=
  if g.length ≠ 64 then 1
  else
    match firstBad g with
    | none => 81
    | some j => (j + 1) + 2 * (j / 8) + 2

/-- What an accumulator of plane `p` (0 low, 1 high) holds after the last `k` positions of group `x` have been
packed: below bit `8 - k` zeros, above it the plane bits, the most recent pixel at bit 7 (R87, R89). -/
def PlaneAfter (g : List Nat) (x k p : Nat) (a : Byte) : Prop :=
  ∀ b < 8, a.getLsbD b = (decide (8 ≤ b + k) && (g.getD (8 * x + (15 - k - b)) 0).testBit p)

/-- `PIX` holds the 64 words of `g`, every entry defined. -/
def Holds (s : State) (g : List Nat) : Prop := s.pix.readList 0 64 = some g

/-- `OUT` holds the two bytes of each of the groups below `n`, as R35 lays their bits out, and no other
entry is defined (R33, R39). -/
def Emitted (s : State) (g : List Nat) (n : Nat) : Prop :=
  (∀ x < n, ∃ l h, s.out.read (2 * x) = some l ∧ s.out.read (2 * x + 1) = some h ∧
      PlaneAfter g x 8 0 l ∧ PlaneAfter g x 8 1 h) ∧
    ∀ j, 2 * n ≤ j → s.out.read j = none

/-- What holds in each phase of a run, of the registers and of the buffers (R22, R39, R89, R96, R115). -/
def PhaseInv (s : State) : Prop :=
  match s.phase with
  | .idle => True
  | .check => (∀ j, s.out.read j = none) ∧ (s.len = 64 → ∃ g, Holds s g)
  | .clear => s.len = 64 ∧ ∃ g, Holds s g ∧ LegalUpTo g (8 * s.x.toNat) ∧ Emitted s g s.x.toNat
  | .acc => s.len = 64 ∧ ∃ g, Holds s g ∧ LegalUpTo g (8 * s.x.toNat + (7 - s.y.toNat)) ∧
      Emitted s g s.x.toNat ∧ PlaneAfter g s.x.toNat (7 - s.y.toNat) 0 s.lp ∧
      PlaneAfter g s.x.toNat (7 - s.y.toNat) 1 s.hp
  | .emit => s.len = 64 ∧ ∃ g, Holds s g ∧ LegalUpTo g (8 * s.x.toNat + 8) ∧
      Emitted s g s.x.toNat ∧ PlaneAfter g s.x.toNat 8 0 s.lp ∧ PlaneAfter g s.x.toNat 8 1 s.hp
  | .done => s.len = 64 ∧ ∃ g, Holds s g ∧ LegalUpTo g 64 ∧ Emitted s g 8
  | .fail =>
    (s.len ≠ 64 ∧ s.err = .length ∧ ∀ j, s.out.read j = none) ∨
      (s.len = 64 ∧ ∃ g k, Holds s g ∧ k < 64 ∧ LegalUpTo g k ∧ 3 < fetched g k ∧
        s.err = causeOf (fetched g k) ∧ Emitted s g (k / 8))

/-- Both buffers are in canonical form, no entry outside `PIX[0..63]` and `OUT[0..15]`. -/
def State.buffersWf (s : State) : Bool := s.pix.wf 64 && s.out.wf 16

/-- The invariant of the machine: the buffers' canonical form and what holds in each phase. -/
def State.Inv (s : State) : Prop := s.buffersWf = true ∧ PhaseInv s

end Sys2Proof.Machine
end

