-- ==== Sys2Proof/Certificates/Slice0/Obligations.lean ====
section
/-!
DEFINITION. The statements for the provers, each with the rule of the spec it formalises.
-/

open Sys2Proof Sys2Proof.Machine

/-! ## Words and the decoder -/

/-- R53, R54: words written out from the table's patterns, and the boundary words of the illegal classes. -/
def Obligations.WrittenOutWordsDecode : Prop :=
  decode 0b00000000 = .ok .px0 ∧ decode 0b00000001 = .ok .px1 ∧
    decode 0b00000010 = .ok .px2 ∧ decode 0b00000011 = .ok .px3 ∧
    decode 0b00000100 = .error .range ∧ decode 0b11111111 = .error .range ∧
    decode 0b100000000 = .error .cast ∧ decode 0b100000011 = .error .cast

/-- R53: each instruction has exactly one word, at every width its word fits, and each legal word exactly
one instruction. -/
def Obligations.DecodeEncodeAgree : Prop :=
  (∀ w i, decode w = .ok i ↔ w = encode i) ∧
    (∀ pixw i, i.wellFormed pixw = true →
      wordFits pixw (encode i) = true ∧ decode (encode i) = .ok i) ∧
    ∀ w, wordLegal w = true ↔ ∃ i, decode w = .ok i

/-- R71: narrowing gives the byte of the same value, taken from the word's own bits, or fails with CAST; it
never truncates. Case (c) is an inference the spec marks; it is in `Obligations.WidthDecidesPossibleFailures`.
-/
def Obligations.NarrowingNeverTruncates : Prop :=
  (∀ w, 255 < w → narrow8 w = .error .cast) ∧
    (∀ w, w ≤ 255 → ∃ v, narrow8 w = .ok v ∧ v.toNat = w) ∧
    ∀ pixw w, 2 ≤ pixw → w < 2 ^ pixw → w ≤ 255 →
      narrow8 w = .ok (BitVec.ofNat 8 (slice (min pixw 8 - 1) 0 w))

/-- R72: the range check tests the narrowed byte and never masks. Case (d) is an inference the spec marks;
it is in `Obligations.WidthDecidesPossibleFailures`. -/
def Obligations.RangeCheckNeverMasks : Prop :=
  (∀ v : Byte, 3 < v.toNat → inRange v = .error .range) ∧
    ∀ v : Byte, v.toNat ≤ 3 → ∃ c, inRange v = .ok c ∧ c.toNat = v.toNat ∧ c = v.extractLsb' 0 2

/-- R73: the four rows of the bit-pair map. The equivalent form, an inference the spec marks, is in
`Obligations.InstructionDecoderAgreesWithPairDecoder`. -/
def Obligations.BitPairMap : Prop :=
  bitPair 0b00 = (0x00, 0x00) ∧ bitPair 0b01 = (0x80, 0x00) ∧
    bitPair 0b10 = (0x00, 0x80) ∧ bitPair 0b11 = (0x80, 0x80)

/-- R74: the decoder is the three functions in order, the first that fails deciding, and its value on
every word. -/
def Obligations.DecoderByValue : Prop :=
  (∀ w k, decodePair w = .error k ↔
      narrow8 w = .error k ∨ ∃ v, narrow8 w = .ok v ∧ inRange v = .error k) ∧
    (∀ w p, decodePair w = .ok p ↔
      ∃ v c, narrow8 w = .ok v ∧ inRange v = .ok c ∧ p = bitPair c) ∧
    decodePair 0 = .ok (0x00, 0x00) ∧ decodePair 1 = .ok (0x80, 0x00) ∧
    decodePair 2 = .ok (0x00, 0x80) ∧ decodePair 3 = .ok (0x80, 0x80) ∧
    (∀ w, 4 ≤ w → w ≤ 255 → decodePair w = .error .range) ∧
    (∀ w, 256 ≤ w → decodePair w = .error .cast)

/-- The instruction decoder and the decoder of R74 fail with the same cause, and a decoded instruction's
code gives the pair: bit 0 of the code moved to bit 7 of the first byte, bit 1 to bit 7 of the second (R73,
an inference the spec marks 'derived: by inspection of the four rows'). -/
def Obligations.InstructionDecoderAgreesWithPairDecoder : Prop :=
  ∀ w, (∀ k, decode w = .error k ↔ decodePair w = .error k) ∧
    ∀ i, decode w = .ok i → decodePair w =
      .ok ((i.code.extractLsb' 0 1).setWidth 8 <<< 7, (i.code.extractLsb' 1 1).setWidth 8 <<< 7)

/-- The fields decide the class: the field view of R51 and the partition of R54, which the spec marks as
derived. The width is an argument (log 1). A non-zero `cz` is CAST whatever the rest holds, otherwise a
non-zero `rz` is RANGE, otherwise the word is the instruction of its `code`. -/
def Obligations.FieldsDecideTheClass : Prop :=
  ∀ pixw w, 2 ≤ pixw → w < 2 ^ pixw →
    (czField pixw w ≠ 0 → classify w = .notNarrowable ∧ decode w = .error .cast) ∧
    (czField pixw w = 0 → rzField pixw w ≠ 0 →
      classify w = .outOfRange ∧ decode w = .error .range) ∧
    (czField pixw w = 0 → rzField pixw w = 0 →
      classify w = .legal ∧ ∃ i, decode w = .ok i ∧ i.code.toNat = codeField w)

/-- R75: which failures the words of a width can produce, and with them R71 case (c) and R72 case (d): an
inference the spec marks 'derived: from rule R71 case (c) and rule R72 case (d)'. The width is an argument (log
1). -/
def Obligations.WidthDecidesPossibleFailures : Prop :=
  ∀ pixw, 2 ≤ pixw →
    (∀ w, w < 2 ^ pixw → pixw ≤ 8 → ∃ v, narrow8 w = .ok v) ∧
    (∀ w, w < 2 ^ pixw → pixw = 2 → ∃ v c, narrow8 w = .ok v ∧ inRange v = .ok c) ∧
    ((∃ w, w < 2 ^ pixw ∧ decode w = .error .range) ↔ 3 ≤ pixw) ∧
    ((∃ w, w < 2 ^ pixw ∧ decode w = .error .cast) ↔ 9 ≤ pixw) ∧
    ∀ w, decode w ≠ .error .length

/-! ## The accumulators and the four instructions -/

/-- R80: the update of an accumulator, whole and bit by bit, for the two contributions. -/
def Obligations.AccumulatorUpdate : Prop :=
  ∀ a c : Byte, c = 0x00 ∨ c = 0x80 →
    acc a c = (a >>> 1) ||| c ∧ (acc a c).getLsbD 7 = c.getLsbD 7 ∧
    ∀ i, i ≤ 6 → (acc a c).getLsbD i = a.getLsbD (i + 1)

/-- R86 (b), which the spec marks 'derived: from rule R80', and R86 (c): the OR is an addition, and the indices
are concatenations that stay in their buffers. -/
def Obligations.ArithmeticNeverWraps : Prop :=
  (∀ a c : Byte, c = 0x00 ∨ c = 0x80 → (acc a c).toNat = a.toNat / 2 + c.toNat) ∧
    ∀ x y : BitVec 3, (pixIndex x y).toNat = 8 * x.toNat + y.toNat ∧
      (lowIndex x).toNat = 2 * x.toNat ∧ (highIndex x).toNat = 2 * x.toNat + 1

/-- R82: PX0 completes from every state; both accumulators shift, nothing else changes. -/
def Obligations.Px0ShiftsBoth : Prop :=
  ∀ s, ∃ t, exec .px0 s = .next t ∧ t.lp = s.lp >>> 1 ∧ t.hp = s.hp >>> 1 ∧
    SameButAccumulators s t

/-- R83: PX1 completes from every state; both accumulators shift, `LP` takes bit 7, nothing else changes. -/
def Obligations.Px1SetsLowPlane : Prop :=
  ∀ s, ∃ t, exec .px1 s = .next t ∧ t.lp = (s.lp >>> 1) ||| 0x80 ∧ t.hp = s.hp >>> 1 ∧
    SameButAccumulators s t

/-- R84: PX2 completes from every state; both accumulators shift, `HP` takes bit 7, nothing else changes. -/
def Obligations.Px2SetsHighPlane : Prop :=
  ∀ s, ∃ t, exec .px2 s = .next t ∧ t.lp = s.lp >>> 1 ∧ t.hp = (s.hp >>> 1) ||| 0x80 ∧
    SameButAccumulators s t

/-- R85: PX3 completes from every state; both accumulators shift and take bit 7, nothing else changes. -/
def Obligations.Px3SetsBothPlanes : Prop :=
  ∀ s, ∃ t, exec .px3 s = .next t ∧ t.lp = (s.lp >>> 1) ||| 0x80 ∧ t.hp = (s.hp >>> 1) ||| 0x80 ∧
    SameButAccumulators s t

/-- R87, which the spec marks 'derived: from rule R80 and rule R81': after CLEAR and `k` instructions, 1 to 8 of
them, the `m`-th code's bits stand at bit `7 - (k - m)` of the accumulators, and every bit below `8 - k` is 0.
-/
def Obligations.GroupClosedForm : Prop :=
  ∀ (s : State) (is : List Instr), 1 ≤ is.length → is.length ≤ 8 →
    ∃ t, is.foldlM (fun (u : State) i =>
        match exec i u with
        | .next v => some v
        | _ => none) (coreClear s) = some t ∧
      (∀ m (h : m < is.length),
        t.lp.getLsbD (7 - (is.length - 1 - m)) = is[m].code.getLsbD 0 ∧
        t.hp.getLsbD (7 - (is.length - 1 - m)) = is[m].code.getLsbD 1) ∧
      ∀ b, b < 8 - is.length → t.lp.getLsbD b = false ∧ t.hp.getLsbD b = false

/-! ## The steps of the CORE -/

/-- What a step adds around `exec` (log 5, log 8): when the word at `(X, Y)` decodes to an instruction, a step
in which the CORE moves is `exec` of that instruction, and then the position moves: at `Y = 0` the group ends,
else `Y` is one less. -/
def Obligations.StepRunsDecodedPixel : Prop :=
  ∀ s s' w i, CoreMoves s s' → s.phase = .acc → s.pix.read (8 * s.x.toNat + s.y.toNat) = some w →
    decode w = .ok i →
    ∃ t u, exec i s' = .next t ∧ step s = .next u ∧
      u.lp = t.lp ∧ u.hp = t.hp ∧
      (s.y = 0 → u.phase = .emit ∧ u.y = s.y) ∧
      (s.y ≠ 0 → u.phase = .acc ∧ u.y.toNat + 1 = s.y.toNat) ∧
      u.x = s.x ∧ u.err = s.err ∧ SameInput s u ∧ SameOut s u ∧ SameHost s' u

/-- R94, over the model's list of turns (log 5): when the CORE moves, the step is the one its phase names. -/
def Obligations.CoreTurnIsThePhaseStep : Prop :=
  ∀ s s', CoreMoves s s' →
    step s = (match s.phase with
      | .idle => .next s'
      | .check => .next (coreCheck s')
      | .clear => .next (coreClear s')
      | .acc => coreAcc s'
      | .emit => .next (coreEmit s')
      | .done => .next s'
      | .fail => .next s')

/-- CHECK goes on with group 0 when the length is 64, and fails with LENGTH otherwise, whatever the words are
(R92). What a failing CHECK leaves as it was is R114's, which the spec marks as its own choice (D6): 'That `X`,
`Y`, `LP`, `HP` and `OUT` are left alone, and not cleared, is this spec's choice and is unobservable'. -/
def Obligations.CheckTestsTheLength : Prop :=
  ∀ s, s.phase = .check → ∃ t, coreStep s = .next t ∧
    (s.len = 64 → t.phase = .clear ∧ t.x = 0 ∧ t.err = s.err) ∧
    (s.len ≠ 64 → t.phase = .fail ∧ t.err = .length ∧ t.x = s.x) ∧
    t.y = s.y ∧ t.lp = s.lp ∧ t.hp = s.hp ∧ SameInput s t ∧ SameOut s t ∧ SameHost s t

/-- R81: CLEAR. -/
def Obligations.ClearStartsAGroup : Prop :=
  ∀ s, s.phase = .clear → ∃ t, coreStep s = .next t ∧
    t.lp = 0x00 ∧ t.hp = 0x00 ∧ t.y = 7 ∧ t.phase = .acc ∧ t.x = s.x ∧ t.err = s.err ∧
    SameInput s t ∧ SameOut s t ∧ SameHost s t

/-- R93: ACC on a defined word, by the decoder of R74: a failure writes `ERR` and `PHASE` and nothing
else; otherwise both accumulators are updated and the position moves. -/
def Obligations.AccPacksOnePixel : Prop :=
  ∀ s w, s.phase = .acc → s.pix.read (8 * s.x.toNat + s.y.toNat) = some w →
    ∃ t, coreStep s = .next t ∧
      (∀ k, decodePair w = .error k →
        t.phase = .fail ∧ t.err = k ∧ t.lp = s.lp ∧ t.hp = s.hp ∧ t.y = s.y) ∧
      (∀ lo hi, decodePair w = .ok (lo, hi) →
        t.lp = acc s.lp lo ∧ t.hp = acc s.hp hi ∧ t.err = s.err ∧
        (s.y = 0 → t.phase = .emit ∧ t.y = s.y) ∧
        (s.y ≠ 0 → t.phase = .acc ∧ t.y.toNat + 1 = s.y.toNat)) ∧
      t.x = s.x ∧ SameInput s t ∧ SameOut s t ∧ SameHost s t

/-- R88: EMIT writes the low-plane byte at `2*X` and the high-plane byte at `2*X + 1`, every other byte of
`OUT` is as before, and the next group begins or the run ends. -/
def Obligations.EmitAppendsTwoBytes : Prop :=
  ∀ s, s.phase = .emit → ∃ t, coreStep s = .next t ∧
    t.out.read (2 * s.x.toNat) = some s.lp ∧ t.out.read (2 * s.x.toNat + 1) = some s.hp ∧
    (∀ j, j ≠ 2 * s.x.toNat → j ≠ 2 * s.x.toNat + 1 → t.out.read j = s.out.read j) ∧
    (s.x = 7 → t.phase = .done ∧ t.x = s.x) ∧
    (s.x ≠ 7 → t.phase = .clear ∧ t.x.toNat = s.x.toNat + 1) ∧
    t.lp = s.lp ∧ t.hp = s.hp ∧ t.y = s.y ∧ t.err = s.err ∧ SameInput s t ∧ SameHost s t

/-- `fail K` writes `ERR` and `PHASE` and nothing else (R114; 'That `X`, `Y`, `LP`, `HP` and `OUT` are left
alone, and not cleared, is this spec's choice and is unobservable'). -/
def Obligations.FailWritesCauseAndPhaseOnly : Prop :=
  ∀ s k, (State.fail s k).err = k ∧ (State.fail s k).phase = .fail ∧
    (State.fail s k).x = s.x ∧ (State.fail s k).y = s.y ∧ (State.fail s k).lp = s.lp ∧
    (State.fail s k).hp = s.hp ∧ SameInput s (State.fail s k) ∧ SameOut s (State.fail s k) ∧
    SameHost s (State.fail s k)

/-- R15, R96, R139, over the spec's own division into phases (D5): in a ready phase the CORE changes nothing; in a
busy phase its step never answers the state it began with, and from a state that meets the invariant it answers
another state. -/
def Obligations.ReadyBlockWaitsBusyBlockMoves : Prop :=
  ∀ s, (s.ready = true → coreStep s = .next s) ∧ (s.ready = false → coreStep s ≠ .next s) ∧
    (s.ready = false → s.Inv → ∃ t, t ≠ s ∧ coreStep s = .next t)

/-! ## The host -/

/-- R24, R130: what RESET leaves, from every state. The values of the registers the spec leaves undefined
are not stated: they are free (log 3), and the undefined entries are absent (log 4). The answers handed over
before stay (log 6). -/
def Obligations.ResetLeavesIdleAndNothingDefined : Prop :=
  ∀ s rest, s.turns = .host .reset :: rest → ∃ t, step s = .next t ∧
    t.phase = .idle ∧ t.status = .idle ∧ t.ready = true ∧ t.result = none ∧
    (∀ i, t.pix.read i = none) ∧ (∀ j, t.out.read j = none) ∧
    t.turns = rest ∧ t.answers = s.answers

/-- The state the machine begins with is one RESET produces (R24, R131; log 4, log 9). -/
def Obligations.InitialStateIsAResetState : Prop :=
  State.reset.phase = .idle ∧ State.reset.status = .idle ∧ State.reset.ready = true ∧
    (∀ i, State.reset.pix.read i = none) ∧ (∀ j, State.reset.out.read j = none) ∧
    ∃ s, s.turns = [.host .reset] ∧ step s = .next State.reset

/-- R91: an accepted START takes the length and the first 64 words by value and leaves nothing of the
previous run in the buffers (words beyond the 64th are not stored by the spec's D16; absent entries: log 4; the
list of turns: log 5). -/
def Obligations.StartTakesTheGridByValue : Prop :=
  ∀ s grid rest, s.ready = true → s.turns = .host (.start grid) :: rest → ∃ t, step s = .next t ∧
    t.phase = .check ∧ t.len = grid.length ∧ (∀ i < 64, t.pix.read i = grid[i]?) ∧
    (∀ i, 64 ≤ i → t.pix.read i = none) ∧ (∀ j, t.out.read j = none) ∧
    t.turns = rest ∧ t.answers = s.answers

/-- The model's choice for an action whose guard is false (log 7, U9): in a busy phase a request of START or
READ_RESULT stands and the step is the CORE's; the same for READ_RESULT in IDLE. -/
def Obligations.DisabledRequestChangesNothing : Prop :=
  ∀ s a rest, s.turns = .host a :: rest →
    ((∃ grid, a = .start grid) ∧ s.ready = false ∨
      a = .readResult ∧ s.phase ≠ .done ∧ s.phase ≠ .fail) →
    step s = coreStep s

/-- R18, R98: the observation hands over `STATUS` and `READY` in every phase and changes nothing of
the block (the answer: log 6). -/
def Obligations.ObservationChangesNothing : Prop :=
  ∀ s rest, s.turns = .host .observe :: rest → ∃ t, step s = .next t ∧
    SameBlock s t ∧ t.turns = rest ∧ t.answers = s.answers ++ [.status s.status s.ready]

/-- The table of `STATUS`, `READY` and the numeric codes (R18). The codes are the spec's own choice (log 11). -/
def Obligations.StatusTable : Prop :=
  ∀ s : State,
    (s.phase = .idle → s.status = .idle ∧ s.ready = true ∧ s.status.code = 0) ∧
    (s.phase = .check ∨ s.phase = .clear ∨ s.phase = .acc ∨ s.phase = .emit →
      s.status = .busy ∧ s.ready = false ∧ s.status.code = 1) ∧
    (s.phase = .done → s.status = .done ∧ s.ready = true ∧ s.status.code = 2) ∧
    (s.phase = .fail → s.err = .length → s.status = .errLength ∧ s.ready = true ∧ s.status.code = 4) ∧
    (s.phase = .fail → s.err = .cast → s.status = .errCast ∧ s.ready = true ∧ s.status.code = 5) ∧
    (s.phase = .fail → s.err = .range → s.status = .errRange ∧ s.ready = true ∧ s.status.code = 6) ∧
    s.status.code ≠ 3 ∧ s.status.code ≠ 7 ∧
    (s.status.code.getLsbD 2 = true ↔ s.phase = .fail)

/-- R97: READ_RESULT hands over the sixteen bytes of `OUT` in index order in DONE, the cause alone in FAIL,
and changes nothing of the block. An `OUT` with an undefined byte is not read (log 4); the answer: log 6. -/
def Obligations.ReadResultReturnsTileOrCause : Prop :=
  ∀ s rest, s.turns = .host .readResult :: rest →
    (∀ tile : List Byte, s.phase = .done → tile.length = 16 → (∀ j < 16, s.out.read j = tile[j]?) →
      ∃ t, step s = .next t ∧ SameBlock s t ∧ t.turns = rest ∧
        t.answers = s.answers ++ [.result (.ok tile)]) ∧
    (s.phase = .fail →
      ∃ t, step s = .next t ∧ SameBlock s t ∧ t.turns = rest ∧
        t.answers = s.answers ++ [.result (.err s.err)]) ∧
    (s.phase = .done → (∃ j < 16, s.out.read j = none) → step s = .refused .undefinedOutput)

/-- R96, R118, R135: in a ready phase the result and `STATUS` are stable: no step but a START or RESET the
host takes changes them (log 5). -/
def Obligations.ResultIsStableUntilStartOrReset : Prop :=
  ∀ s t, s.ready = true → step s = .next t →
    (t.phase = s.phase ∧ t.result = s.result ∧ t.status = s.status) ∨
    ∃ a rest, s.turns = .host a :: rest ∧ t.turns = rest ∧ t.result = none ∧
      (a = .reset ∨ ∃ grid, a = .start grid)

/-! ## Rules of the whole machine -/

/-- R15: a step moves `PHASE` only along the table, but for the host's observation, which changes
nothing of the block (R98, C6). -/
def Obligations.PhaseFollowsTheTable : Prop :=
  ∀ s t, step s = .next t → t.phase ∈ s.phase.successors ∨
    ∃ rest, s.turns = .host .observe :: rest ∧ t.turns = rest ∧ SameBlock s t

/-- R16: `ERR` is written only by a failure of CHECK or ACC, or made undefined by RESET or START. -/
def Obligations.ErrWrittenOnlyByFailure : Prop :=
  ∀ s t, step s = .next t → t.err ≠ s.err →
    (t.phase = .fail ∧ (s.phase = .check ∧ t.err = .length ∨
      s.phase = .acc ∧ (t.err = .cast ∨ t.err = .range))) ∨
    ∃ a rest, s.turns = .host a :: rest ∧ t.turns = rest ∧
      (a = .reset ∨ ∃ grid, a = .start grid)

/-- R17, R30: `LEN` and `PIX` change only when the host's RESET or START is taken. -/
def Obligations.InputChangesOnlyByHost : Prop :=
  ∀ s t, step s = .next t → SameInput s t ∨
    ∃ a rest, s.turns = .host a :: rest ∧ t.turns = rest ∧
      (a = .reset ∧ t.phase = .idle ∨ ∃ grid, a = .start grid ∧ s.ready = true ∧ t.phase = .check)

/-- R31, R38: a byte of `OUT` changes only by EMIT, at the two indices of its group, or is made undefined
by RESET or START. -/
def Obligations.OutChangesOnlyByEmit : Prop :=
  ∀ s t, step s = .next t → ∀ j, t.out.read j = s.out.read j ∨
    (s.phase = .emit ∧ (j = 2 * s.x.toNat ∧ t.out.read j = some s.lp ∨
      j = 2 * s.x.toNat + 1 ∧ t.out.read j = some s.hp)) ∨
    (t.out.read j = none ∧
      ∃ a rest, s.turns = .host a :: rest ∧ t.turns = rest ∧
        (a = .reset ∨ ∃ grid, a = .start grid))

/-- R14, R95: the position. The index at `(X, Y)` is the one that stands at place `8*X + (7 - Y)` of the fetch
order, and each CORE step leaves the position at the place of the next pixel to fetch, from every state. -/
def Obligations.FetchOrderIsFixed : Prop :=
  (∀ x y : BitVec 3, (pixIndex x y).toNat = fetchIndex (8 * x.toNat + (7 - y.toNat))) ∧
    (∀ s t, s.phase = .acc → coreStep s = .next t → t.phase = .acc →
      8 * t.x.toNat + (7 - t.y.toNat) = 8 * s.x.toNat + (7 - s.y.toNat) + 1) ∧
    (∀ s t, s.phase = .acc → coreStep s = .next t → t.phase = .emit →
      8 * t.x.toNat + 8 = 8 * s.x.toNat + (7 - s.y.toNat) + 1) ∧
    (∀ s t, s.phase = .emit → coreStep s = .next t → t.phase = .clear →
      8 * t.x.toNat = 8 * s.x.toNat + 8) ∧
    (∀ s t, s.phase = .clear → coreStep s = .next t →
      8 * t.x.toNat + (7 - t.y.toNat) = 8 * s.x.toNat) ∧
    (∀ s t, s.phase = .check → coreStep s = .next t → t.phase = .clear → 8 * t.x.toNat = 0) ∧
    (List.range 64).map fetchIndex =
      [7, 6, 5, 4, 3, 2, 1, 0, 15, 14, 13, 12, 11, 10, 9, 8,
        23, 22, 21, 20, 19, 18, 17, 16, 31, 30, 29, 28, 27, 26, 25, 24,
        39, 38, 37, 36, 35, 34, 33, 32, 47, 46, 45, 44, 43, 42, 41, 40,
        55, 54, 53, 52, 51, 50, 49, 48, 63, 62, 61, 60, 59, 58, 57, 56]

/-! ## Invariants -/

/-- The buffers keep their canonical form in every step, whatever else the state holds. -/
def Obligations.StepKeepsBuffersCanonical : Prop :=
  ∀ s t, s.buffersWf = true → step s = .next t → t.buffersWf = true

/-- The state after RESET meets the invariant. -/
def Obligations.ResetMeetsInvariant : Prop := State.reset.Inv

/-- R22, R35, R39, R87, R89, R96, R115: every step, of the CORE or of the host, keeps the invariant. -/
def Obligations.StepKeepsInvariant : Prop := ∀ s t, s.Inv → step s = .next t → t.Inv

/-- From a state that meets the invariant every step is taken: no undefined entry of PIX or OUT is read, since
such a read is refused (log 4), and nothing stops the block (R139). Of a register the spec leaves undefined it
says nothing: its read is a free value and never refused (log 2, log 3); that no result depends on one is
`Obligations.RunsAreIndependentOfThePast`. -/
def Obligations.EveryStepIsTaken : Prop := ∀ s, s.Inv → ∃ t, step s = .next t

/-! ## The operation -/

/-- R101, R104: the function succeeds exactly on the valid grids, with sixteen bytes, and a wrong length
is LENGTH whatever the words. -/
def Obligations.ValidGridsAndOnlyTheySucceed : Prop :=
  (∀ grid, validGrid grid = true ↔ ∃ tile, encodeTile grid = .ok tile) ∧
    (∀ grid tile, encodeTile grid = .ok tile → tile.length = 16) ∧
    ∀ grid, encodeTile grid = .err .length ↔ grid.length ≠ 64

/-- R35, R103: the closed form of the tile. -/
def Obligations.TileClosedForm : Prop :=
  ∀ grid, validGrid grid = true → ∃ tile, encodeTile grid = .ok tile ∧ tile.length = 16 ∧
    ∀ x < 8, ∀ b < 8,
      (tile.getD (2 * x) 0).getLsbD b = (grid.getD (8 * x + 7 - b) 0).testBit 0 ∧
      (tile.getD (2 * x + 1) 0).getLsbD b = (grid.getD (8 * x + 7 - b) 0).testBit 1

/-- R103, R115: with 64 words not all legal, the first bad one in fetch order decides the cause. -/
def Obligations.FirstBadPixelDecidesTheCause : Prop :=
  ∀ (grid : List Nat) (k : Nat), grid.length = 64 → k < 64 → LegalUpTo grid k → 3 < fetched grid k →
    encodeTile grid = .err (causeOf (fetched grid k))

/-- R56: every 16-byte record is the encoding of exactly one valid grid. -/
def Obligations.EncodingIsABijection : Prop :=
  ∀ tile : List Byte, tile.length = 16 →
    ∃ grid, (validGrid grid = true ∧ encodeTile grid = .ok tile) ∧
      ∀ grid', validGrid grid' = true ∧ encodeTile grid' = .ok tile → grid' = grid

/-- R100: from any ready state, START and READ_RESULT, with the CORE's steps between them, hand the host
exactly the function's result; 81 CORE steps suffice. The state before START need meet no invariant. -/
def Obligations.RunComputesEncodeTile : Prop :=
  ∀ (s : State) grid, s.ready = true → s.turns = [.host (.start grid), .host .readResult] →
    ∃ n ≤ 83, ∃ t, s.run n = .next t ∧ t.turns = [] ∧
      t.ready = true ∧ t.result = some (encodeTile grid) ∧
      t.answers = s.answers ++ [.result (encodeTile grid)]

/-- R100: the number of CORE steps of a run, by R100's table: before it the block is busy, at it the run
has ended. A fuel bound, not timing (R138). -/
def Obligations.RunEndsAfterTheStatedSteps : Prop :=
  ∀ (s : State) grid, s.ready = true → s.turns = [] →
    (∀ m < runSteps grid, ∃ t, (hostStart grid s).run m = .next t ∧
      t.ready = false) ∧
    (∃ t, (hostStart grid s).run (runSteps grid) = .next t ∧
      (t.phase = .done ∨ t.phase = .fail)) ∧ runSteps grid ≤ 81

/-- R102: two ready states, whatever they hold, and the same grid: the results handed over are the same. -/
def Obligations.RunsAreIndependentOfThePast : Prop :=
  ∀ (s₁ s₂ : State) grid n₁ n₂ t₁ t₂, s₁.ready = true → s₂.ready = true → s₁.turns = [] → s₂.turns = [] →
    (hostStart grid s₁).run n₁ = .next t₁ →
    (hostStart grid s₂).run n₂ = .next t₂ →
    t₁.ready = true → t₂.ready = true → t₁.result = t₂.result ∧ t₁.status = t₂.status

/-- R102: a run is unaffected by what the host's observations do in the middle of it: a step of the CORE
and an observation commute on the nine elements of the block. -/
def Obligations.ObservationDoesNotDisturbARun : Prop :=
  ∀ s t, s.turns = [] → step s = .next t →
    ∃ u v, step { s with turns := [.host .observe] } = .next u ∧ step u = .next v ∧
      v = { t with answers := s.answers ++ [.status s.status s.ready] }

/-- R127: a step of one instance leaves every other instance as it was, and is the step it would take alone. -/
def Obligations.InstancesAreIndependent : Prop :=
  ∀ (ms ms' : List State) k, stepInstance k ms = .next ms' →
    ms'.length = ms.length ∧ (∀ j, j ≠ k → ms'[j]? = ms[j]?) ∧
    ∀ m, ms[k]? = some m → ∃ m', step m = .next m' ∧ ms'[k]? = some m'

/-- A word placed by `withFetchWord` is what the very next step runs, from every state. -/
def Obligations.FetchWordRunsNext : Prop :=
  ∀ (s : State) nbits w i, decodeTableWord nbits w = some i →
    ∃ t u, exec i (s.withFetchWord nbits w) = .next t ∧ step (s.withFetchWord nbits w) = .next u ∧
      u.lp = t.lp ∧ u.hp = t.hp ∧ u.turns = s.turns
end

