-- ==== Sys2Proof/Laws/Decode.lean ====
section
/-!
SUPPORT. The decoder by the value of the word, and what an instruction does by its code.
-/

namespace Sys2Proof

theorem narrow8_of_le {w : Nat} (h : w ≤ 255) : narrow8 w = .ok (BitVec.ofNat 8 w) := by
  unfold narrow8; rw [if_neg (by omega)]

theorem narrow8_of_gt {w : Nat} (h : 255 < w) : narrow8 w = .error .cast := by
  unfold narrow8; rw [if_pos h]

theorem toNat_narrowed {w : Nat} (h : w ≤ 255) : (BitVec.ofNat 8 w).toNat = w := by
  rw [BitVec.toNat_ofNat, Nat.mod_eq_of_lt (by omega)]

theorem inRange_of_gt {v : Byte} (h : 3 < v.toNat) : inRange v = .error .range := by
  unfold inRange; rw [if_pos h]

theorem inRange_of_le {v : Byte} (h : v.toNat ≤ 3) : inRange v = .ok (v.extractLsb' 0 2) := by
  unfold inRange; rw [if_neg (by omega)]

theorem code_of_small {w : Nat} (h : w ≤ 3) :
    inRange (BitVec.ofNat 8 w) = .ok (BitVec.ofNat 2 w) := by
  interval_cases w <;> rfl

/-- The decoder by value: `CAST` above 255, else `RANGE` above 3, else the instruction of that code. -/
theorem decode_by_value (w : Nat) :
    decode w = if 255 < w then .error .cast else if 3 < w then .error .range
      else .ok (instrOfCode (BitVec.ofNat 2 w)) := by
  unfold decode
  by_cases h : 255 < w
  · simp [h, narrow8_of_gt]
  · rw [narrow8_of_le (by omega), if_neg h]
    by_cases h3 : 3 < w
    · simp [h3, inRange_of_gt, toNat_narrowed (show w ≤ 255 by omega)]
    · simp only [if_neg h3, code_of_small (show w ≤ 3 by omega)]

@[simp] theorem instrOfCode_code (i : Instr) : instrOfCode i.code = i := by cases i <;> rfl

@[simp] theorem code_instrOfCode (c : BitVec 2) : (instrOfCode c).code = c := by
  revert c; decide

theorem encode_le_three (i : Instr) : encode i ≤ 3 := by cases i <;> decide

namespace Machine

/-- The decoder from a word to its contribution pair, by value. -/
theorem decodePair_by_value (w : Nat) :
    decodePair w = if 255 < w then .error .cast else if 3 < w then .error .range
      else .ok (bitPair (BitVec.ofNat 2 w)) := by
  unfold decodePair
  by_cases h : 255 < w
  · simp [h, narrow8_of_gt]
  · rw [narrow8_of_le (by omega), if_neg h]
    by_cases h3 : 3 < w
    · simp [h3, inRange_of_gt, toNat_narrowed (show w ≤ 255 by omega)]
    · simp only [if_neg h3, code_of_small (show w ≤ 3 by omega)]

/-- The two decoders fail alike, and succeed alike: the pair is that of the instruction's code. -/
theorem decodePair_eq_decode (w : Nat) :
    decodePair w = match decode w with
      | .error k => .error k
      | .ok i => .ok (bitPair i.code) := by
  rw [decodePair_by_value, decode_by_value]
  by_cases h : 255 < w
  · simp [h]
  · by_cases h3 : 3 < w <;> simp [h, h3]

/-- What an instruction does: both accumulators take the contributions of its code. It never stops. -/
theorem exec_eq (i : Instr) (s : State) :
    exec i s = .next (s.accumulate (bitPair i.code).1 (bitPair i.code).2) := by
  cases i <;> rfl

end Machine

end Sys2Proof
end

