-- ==== Sys2Proof/Laws/Memory.lean ====
section
/-!
SUPPORT. The buffers: a read after a write, the canonical form and that every buffer operation keeps it, and
what reading a whole buffer says of its entries.
-/

namespace Sys2Proof.Machine

variable {α : Type}

@[simp] theorem Memory.read_nil (i : Nat) : Memory.read ([] : Memory α) i = none := rfl

/-- A read after a write: the written entry holds the value, every other entry is as it was. -/
theorem Memory.read_write (m : Memory α) (i j : Nat) (v : α) :
    (m.write i v).read j = if j = i then some v else m.read j := by
  induction m with
  | nil => simp [Memory.write, Memory.read, eq_comm]
  | cons c rest ih =>
    obtain ⟨a, u⟩ := c
    unfold Memory.write
    split
    · by_cases hj : j = i <;> simp [Memory.read, hj, Ne.symm, eq_comm]
    · split
      · rename_i heq
        subst heq
        by_cases hj : j = i
        · simp [Memory.read, hj]
        · simp [Memory.read, hj, Ne.symm hj]
      · simp only [Memory.read, ih]
        by_cases hja : a = j <;> by_cases hj : j = i <;> simp_all

@[simp] theorem Memory.read_write_same (m : Memory α) (i : Nat) (v : α) :
    (m.write i v).read i = some v := by simp [Memory.read_write]

theorem Memory.read_write_other (m : Memory α) {i j : Nat} (v : α) (h : j ≠ i) :
    (m.write i v).read j = m.read j := by simp [Memory.read_write, h]

theorem Memory.wfFrom_write (size : Nat) (m : Memory α) (v : α) :
    ∀ lo i, lo ≤ i → i < size → Memory.wfFrom size lo m = true →
      Memory.wfFrom size lo (m.write i v) = true := by
  induction m with
  | nil => intro lo i h h' _; simp [Memory.write, Memory.wfFrom, h, h']
  | cons c rest ih =>
    obtain ⟨a, u⟩ := c
    intro lo i hlo hi h
    simp only [Memory.wfFrom, Bool.and_eq_true, decide_eq_true_eq] at h
    unfold Memory.write
    split
    · simp [Memory.wfFrom, *]
    · split
      · simp_all [Memory.wfFrom]
      · simp only [Memory.wfFrom, Bool.and_eq_true, decide_eq_true_eq]
        exact ⟨h.1, ih (a + 1) i (by omega) hi h.2⟩

/-- A write inside the buffer keeps the canonical form. -/
theorem Memory.wf_write {size : Nat} {m : Memory α} {i : Nat} {v : α} (hi : i < size)
    (h : m.wf size = true) : (m.write i v).wf size = true :=
  Memory.wfFrom_write size m v 0 i (Nat.zero_le _) hi h

@[simp] theorem Memory.wf_nil (size : Nat) : Memory.wf size ([] : Memory α) = true := rfl

theorem Memory.wfFrom_ofList (size : Nat) (l : List α) :
    ∀ i, i + l.length ≤ size → Memory.wfFrom size i (Memory.ofList i l) = true := by
  induction l with
  | nil => intro i _; rfl
  | cons v rest ih =>
    intro i h
    simp only [List.length_cons] at h
    simp only [Memory.ofList, Memory.wfFrom, Bool.and_eq_true, decide_eq_true_eq]
    exact ⟨⟨Nat.le_refl _, by omega⟩, ih (i + 1) (by omega)⟩

/-- A list no longer than the buffer fills it in canonical form. -/
theorem Memory.wf_ofList {size : Nat} {l : List α} (h : l.length ≤ size) :
    (Memory.ofList 0 l).wf size = true :=
  Memory.wfFrom_ofList size l 0 (by omega)

theorem Memory.read_ofList (l : List α) :
    ∀ i j, (Memory.ofList i l).read j = if j < i then none else l[j - i]? := by
  induction l with
  | nil => intro i j; simp [Memory.ofList]
  | cons v rest ih =>
    intro i j
    simp only [Memory.ofList, Memory.read, ih]
    by_cases h : i = j
    · simp [h]
    · by_cases hlt : j < i
      · simp [h, hlt]; omega
      · have : j - i = (j - (i + 1)) + 1 := by omega
        simp only [h, hlt, if_false, this, List.getElem?_cons_succ]
        rw [if_neg (by omega)]

/-- A buffer filled from a list holds the list's entries at their places. -/
@[simp] theorem Memory.read_ofList_zero (l : List α) (j : Nat) :
    (Memory.ofList 0 l).read j = l[j]? := by simp [Memory.read_ofList]

/-- What reading `n` entries says: that many, and each the entry at its place. -/
theorem Memory.readList_eq_some (m : Memory α) :
    ∀ n i l, m.readList i n = some l ↔ l.length = n ∧ ∀ j < n, m.read (i + j) = l[j]? := by
  intro n
  induction n with
  | zero => intro i l; cases l <;> simp [Memory.readList]
  | succ n ih =>
    intro i l
    simp only [Memory.readList]
    constructor
    · intro h
      split at h
      · rename_i v rest hv hrest
        obtain ⟨hlen, hall⟩ := (ih _ _).mp hrest
        cases h
        refine ⟨by simp [hlen], fun j hj => ?_⟩
        cases j with
        | zero => simpa using hv
        | succ j => simpa [Nat.add_assoc, Nat.add_comm 1] using hall j (by omega)
      · cases h
    · rintro ⟨hlen, hall⟩
      cases l with
      | nil => simp at hlen
      | cons v rest =>
        have h0 : m.read i = some v := by simpa using hall 0 (by omega)
        have h1 : m.readList (i + 1) n = some rest := by
          refine (ih _ _).mpr ⟨by simpa using hlen, fun j hj => ?_⟩
          simpa [Nat.add_assoc, Nat.add_comm 1] using hall (j + 1) (by omega)
        simp [h0, h1]

theorem Memory.readList_zero_eq_some (m : Memory α) (n : Nat) (l : List α) :
    m.readList 0 n = some l ↔ l.length = n ∧ ∀ j < n, m.read j = l[j]? := by
  simpa using Memory.readList_eq_some m n 0 l

theorem Memory.read_eq_none_of_lt (size : Nat) (m : Memory α) :
    ∀ lo j, j < lo → Memory.wfFrom size lo m = true → m.read j = none := by
  induction m with
  | nil => intros; rfl
  | cons c rest ih =>
    obtain ⟨a, u⟩ := c
    intro lo j hj h
    simp only [Memory.wfFrom, Bool.and_eq_true, decide_eq_true_eq] at h
    simp only [Memory.read, if_neg (show ¬a = j by omega)]
    exact ih (a + 1) j (by omega) h.2

theorem Memory.read_eq_none_of_ge (size : Nat) (m : Memory α) :
    ∀ lo j, size ≤ j → Memory.wfFrom size lo m = true → m.read j = none := by
  induction m with
  | nil => intros; rfl
  | cons c rest ih =>
    obtain ⟨a, u⟩ := c
    intro lo j hj h
    simp only [Memory.wfFrom, Bool.and_eq_true, decide_eq_true_eq] at h
    simp only [Memory.read, if_neg (show ¬a = j by omega)]
    exact ih (a + 1) j hj h.2

/-- Two buffers in canonical form that read alike are the same list. -/
theorem Memory.ext_of_wfFrom (size : Nat) (m m' : Memory α) :
    ∀ lo, Memory.wfFrom size lo m = true → Memory.wfFrom size lo m' = true →
      (∀ j, m.read j = m'.read j) → m = m' := by
  induction m generalizing m' with
  | nil =>
    intro lo _ _ h
    cases m' with
    | nil => rfl
    | cons c _ => simpa [Memory.read] using h c.1
  | cons c rest ih =>
    obtain ⟨a, u⟩ := c
    intro lo hw hw' h
    cases m' with
    | nil => simpa [Memory.read] using h a
    | cons c' rest' =>
      obtain ⟨a', u'⟩ := c'
      simp only [Memory.wfFrom, Bool.and_eq_true, decide_eq_true_eq] at hw hw'
      have haa : a = a' := by
        rcases Nat.lt_trichotomy a a' with hlt | heq | hgt
        · have := h a
          rw [Memory.read, if_pos rfl, Memory.read, if_neg (by omega),
            Memory.read_eq_none_of_lt size rest' (a' + 1) a (by omega) hw'.2] at this
          cases this
        · exact heq
        · have := h a'
          rw [Memory.read, if_neg (by omega),
            Memory.read_eq_none_of_lt size rest (a + 1) a' (by omega) hw.2, Memory.read,
            if_pos rfl] at this
          cases this
      subst haa
      have huu : u = u' := by simpa [Memory.read] using h a
      subst huu
      have : rest = rest' := by
        refine ih rest' (a + 1) hw.2 hw'.2 fun j => ?_
        by_cases hj : a = j
        · subst hj
          rw [Memory.read_eq_none_of_lt size rest (a + 1) a (by omega) hw.2,
            Memory.read_eq_none_of_lt size rest' (a + 1) a (by omega) hw'.2]
        · simpa [Memory.read, hj] using h j
      rw [this]

end Sys2Proof.Machine
end

