-- ==== Sys2Proof/Laws/Operands.lean ====
section
/-!
SUPPORT. The indices as numbers, the contributions and the accumulator update bit by bit.
-/

namespace Sys2Proof.Machine

@[simp] theorem pixIndex_toNat (x y : BitVec 3) : (pixIndex x y).toNat = 8 * x.toNat + y.toNat := by
  revert x y; decide

@[simp] theorem lowIndex_toNat (x : BitVec 3) : (lowIndex x).toNat = 2 * x.toNat := by
  revert x; decide

@[simp] theorem highIndex_toNat (x : BitVec 3) : (highIndex x).toNat = 2 * x.toNat + 1 := by
  revert x; decide

/-- Bit 7 of a contribution is the plane bit, the others are 0 (R55). -/
theorem getLsbD_contribution (b : Bool) (i : Nat) :
    (contribution b).getLsbD i = (decide (i = 7) && b) := by
  by_cases h : i < 8
  · cases b <;> interval_cases i <;> decide
  · rw [BitVec.getLsbD_of_ge _ _ (by omega)]
    simp [show i ≠ 7 by omega]

/-- The update bit by bit: every bit takes the one above it, and the contribution is ORed in (R80). -/
theorem getLsbD_acc (a c : Byte) (i : Nat) :
    (acc a c).getLsbD i = (a.getLsbD (i + 1) || c.getLsbD i) := by
  simp [acc, BitVec.getLsbD_ushiftRight, Nat.add_comm]

/-- With a contribution: bit 7 is the plane bit, every bit below takes the one above it. -/
theorem getLsbD_acc_contribution (a : Byte) (b : Bool) {i : Nat} (hi : i < 8) :
    (acc a (contribution b)).getLsbD i = if i = 7 then b else a.getLsbD (i + 1) := by
  rw [getLsbD_acc, getLsbD_contribution]
  by_cases h : i = 7
  · subst h; simp
  · simp [h]

/-- The contributions of a legal word are its two plane bits. -/
theorem bitPair_ofNat (w : Nat) :
    bitPair (BitVec.ofNat 2 w) = (contribution (w.testBit 0), contribution (w.testBit 1)) := by
  simp only [bitPair, BitVec.getLsbD_ofNat]
  simp

end Sys2Proof.Machine
end

