-- ==== Sys2Proof/Laws/PerInstr.lean ====
section
/-!
SUPPORT. Statements for all instructions, one lemma per constructor.
-/

namespace Sys2Proof.Laws.WordFields

/-- The word of an instruction has its `code` and nothing else (R51, R53): every other field is 0 at every
width R5 allows, and at each of them the instruction is well formed. -/
def Statement (i : Instr) : Prop :=
  codeField (encode i) = i.code.toNat ∧
    ∀ pixw, 2 ≤ pixw → i.wellFormed pixw = true ∧ rzField pixw (encode i) = 0 ∧
      czField pixw (encode i) = 0

theorem of_code_lt {i : Instr} (hc : codeField (encode i) = i.code.toNat) (h : encode i < 4) :
    Statement i := by
  refine ⟨hc, fun pixw hw => ⟨?_, ?_, ?_⟩⟩
  · have := Nat.pow_le_pow_right (n := 2) (by omega) hw
    simp only [Instr.wellFormed, Config.pixwOk, wordFits, Bool.and_eq_true, decide_eq_true_eq]
    exact ⟨hw, by unfold encode at h; omega⟩
  · have : encode i / 2 ^ 2 = 0 := by omega
    rw [rzField, slice, Nat.shiftRight_eq_div_pow, this, Nat.zero_mod]
  · have : encode i / 2 ^ 8 = 0 := by omega
    rw [czField, slice, Nat.shiftRight_eq_div_pow, this, Nat.zero_mod]

theorem px0 : Statement .px0 := of_code_lt (by decide) (by decide)

theorem px1 : Statement .px1 := of_code_lt (by decide) (by decide)

theorem px2 : Statement .px2 := of_code_lt (by decide) (by decide)

theorem px3 : Statement .px3 := of_code_lt (by decide) (by decide)

end Sys2Proof.Laws.WordFields
end

