-- ==== Sys2Proof/Laws/State.lean ====
section
/-!
SUPPORT. One lemma per field per update of the state, so that no proof unfolds a record update.
-/

namespace Sys2Proof.Machine

/-! `OutWrite` (R38). -/

@[simp] theorem State.outWrite_phase (s : State) (j : BitVec 4) (b : Byte) : (s.outWrite j b).phase = s.phase :=
  rfl
@[simp] theorem State.outWrite_err (s : State) (j : BitVec 4) (b : Byte) : (s.outWrite j b).err = s.err :=
  rfl
@[simp] theorem State.outWrite_len (s : State) (j : BitVec 4) (b : Byte) : (s.outWrite j b).len = s.len :=
  rfl
@[simp] theorem State.outWrite_pix (s : State) (j : BitVec 4) (b : Byte) : (s.outWrite j b).pix = s.pix :=
  rfl
@[simp] theorem State.outWrite_lp (s : State) (j : BitVec 4) (b : Byte) : (s.outWrite j b).lp = s.lp :=
  rfl
@[simp] theorem State.outWrite_hp (s : State) (j : BitVec 4) (b : Byte) : (s.outWrite j b).hp = s.hp :=
  rfl
@[simp] theorem State.outWrite_x (s : State) (j : BitVec 4) (b : Byte) : (s.outWrite j b).x = s.x :=
  rfl
@[simp] theorem State.outWrite_y (s : State) (j : BitVec 4) (b : Byte) : (s.outWrite j b).y = s.y :=
  rfl
@[simp] theorem State.outWrite_out (s : State) (j : BitVec 4) (b : Byte) : (s.outWrite j b).out = s.out.write j.toNat b :=
  rfl
@[simp] theorem State.outWrite_fresh (s : State) (j : BitVec 4) (b : Byte) : (s.outWrite j b).fresh = s.fresh :=
  rfl
@[simp] theorem State.outWrite_turns (s : State) (j : BitVec 4) (b : Byte) : (s.outWrite j b).turns = s.turns :=
  rfl
@[simp] theorem State.outWrite_answers (s : State) (j : BitVec 4) (b : Byte) : (s.outWrite j b).answers = s.answers :=
  rfl

/-! The double update of the accumulators (R80). -/

@[simp] theorem State.accumulate_phase (s : State) (lo hi : Byte) : (s.accumulate lo hi).phase = s.phase :=
  rfl
@[simp] theorem State.accumulate_err (s : State) (lo hi : Byte) : (s.accumulate lo hi).err = s.err :=
  rfl
@[simp] theorem State.accumulate_len (s : State) (lo hi : Byte) : (s.accumulate lo hi).len = s.len :=
  rfl
@[simp] theorem State.accumulate_pix (s : State) (lo hi : Byte) : (s.accumulate lo hi).pix = s.pix :=
  rfl
@[simp] theorem State.accumulate_lp (s : State) (lo hi : Byte) : (s.accumulate lo hi).lp = acc s.lp lo :=
  rfl
@[simp] theorem State.accumulate_hp (s : State) (lo hi : Byte) : (s.accumulate lo hi).hp = acc s.hp hi :=
  rfl
@[simp] theorem State.accumulate_x (s : State) (lo hi : Byte) : (s.accumulate lo hi).x = s.x :=
  rfl
@[simp] theorem State.accumulate_y (s : State) (lo hi : Byte) : (s.accumulate lo hi).y = s.y :=
  rfl
@[simp] theorem State.accumulate_out (s : State) (lo hi : Byte) : (s.accumulate lo hi).out = s.out :=
  rfl
@[simp] theorem State.accumulate_fresh (s : State) (lo hi : Byte) : (s.accumulate lo hi).fresh = s.fresh :=
  rfl
@[simp] theorem State.accumulate_turns (s : State) (lo hi : Byte) : (s.accumulate lo hi).turns = s.turns :=
  rfl
@[simp] theorem State.accumulate_answers (s : State) (lo hi : Byte) : (s.accumulate lo hi).answers = s.answers :=
  rfl

/-! `fail K` (R114). -/

@[simp] theorem State.fail_phase (s : State) (k : Cause) : (s.fail k).phase = .fail :=
  rfl
@[simp] theorem State.fail_err (s : State) (k : Cause) : (s.fail k).err = k :=
  rfl
@[simp] theorem State.fail_len (s : State) (k : Cause) : (s.fail k).len = s.len :=
  rfl
@[simp] theorem State.fail_pix (s : State) (k : Cause) : (s.fail k).pix = s.pix :=
  rfl
@[simp] theorem State.fail_lp (s : State) (k : Cause) : (s.fail k).lp = s.lp :=
  rfl
@[simp] theorem State.fail_hp (s : State) (k : Cause) : (s.fail k).hp = s.hp :=
  rfl
@[simp] theorem State.fail_x (s : State) (k : Cause) : (s.fail k).x = s.x :=
  rfl
@[simp] theorem State.fail_y (s : State) (k : Cause) : (s.fail k).y = s.y :=
  rfl
@[simp] theorem State.fail_out (s : State) (k : Cause) : (s.fail k).out = s.out :=
  rfl
@[simp] theorem State.fail_fresh (s : State) (k : Cause) : (s.fail k).fresh = s.fresh :=
  rfl
@[simp] theorem State.fail_turns (s : State) (k : Cause) : (s.fail k).turns = s.turns :=
  rfl
@[simp] theorem State.fail_answers (s : State) (k : Cause) : (s.fail k).answers = s.answers :=
  rfl

/-! What RESET and START make undefined (R21). -/

@[simp] theorem State.undefineRun_phase (s : State) : (s.undefineRun).phase = s.phase :=
  rfl
@[simp] theorem State.undefineRun_err (s : State) : (s.undefineRun).err = Config.freeErr s.fresh :=
  rfl
@[simp] theorem State.undefineRun_len (s : State) : (s.undefineRun).len = s.len :=
  rfl
@[simp] theorem State.undefineRun_pix (s : State) : (s.undefineRun).pix = s.pix :=
  rfl
@[simp] theorem State.undefineRun_lp (s : State) : (s.undefineRun).lp = Config.freeLp s.fresh :=
  rfl
@[simp] theorem State.undefineRun_hp (s : State) : (s.undefineRun).hp = Config.freeHp s.fresh :=
  rfl
@[simp] theorem State.undefineRun_x (s : State) : (s.undefineRun).x = Config.freeX s.fresh :=
  rfl
@[simp] theorem State.undefineRun_y (s : State) : (s.undefineRun).y = Config.freeY s.fresh :=
  rfl
@[simp] theorem State.undefineRun_out (s : State) : (s.undefineRun).out = [] :=
  rfl
@[simp] theorem State.undefineRun_fresh (s : State) : (s.undefineRun).fresh = s.fresh + 1 :=
  rfl
@[simp] theorem State.undefineRun_turns (s : State) : (s.undefineRun).turns = s.turns :=
  rfl
@[simp] theorem State.undefineRun_answers (s : State) : (s.undefineRun).answers = s.answers :=
  rfl

/-! Handing the host an answer. -/

@[simp] theorem State.answer_phase (s : State) (a : Answer) : (s.answer a).phase = s.phase :=
  rfl
@[simp] theorem State.answer_err (s : State) (a : Answer) : (s.answer a).err = s.err :=
  rfl
@[simp] theorem State.answer_len (s : State) (a : Answer) : (s.answer a).len = s.len :=
  rfl
@[simp] theorem State.answer_pix (s : State) (a : Answer) : (s.answer a).pix = s.pix :=
  rfl
@[simp] theorem State.answer_lp (s : State) (a : Answer) : (s.answer a).lp = s.lp :=
  rfl
@[simp] theorem State.answer_hp (s : State) (a : Answer) : (s.answer a).hp = s.hp :=
  rfl
@[simp] theorem State.answer_x (s : State) (a : Answer) : (s.answer a).x = s.x :=
  rfl
@[simp] theorem State.answer_y (s : State) (a : Answer) : (s.answer a).y = s.y :=
  rfl
@[simp] theorem State.answer_out (s : State) (a : Answer) : (s.answer a).out = s.out :=
  rfl
@[simp] theorem State.answer_fresh (s : State) (a : Answer) : (s.answer a).fresh = s.fresh :=
  rfl
@[simp] theorem State.answer_turns (s : State) (a : Answer) : (s.answer a).turns = s.turns :=
  rfl
@[simp] theorem State.answer_answers (s : State) (a : Answer) : (s.answer a).answers = s.answers ++ [a] :=
  rfl

/-! CLEAR (R81). -/

@[simp] theorem coreClear_phase (s : State) : (coreClear s).phase = .acc :=
  rfl
@[simp] theorem coreClear_err (s : State) : (coreClear s).err = s.err :=
  rfl
@[simp] theorem coreClear_len (s : State) : (coreClear s).len = s.len :=
  rfl
@[simp] theorem coreClear_pix (s : State) : (coreClear s).pix = s.pix :=
  rfl
@[simp] theorem coreClear_lp (s : State) : (coreClear s).lp = 0x00 :=
  rfl
@[simp] theorem coreClear_hp (s : State) : (coreClear s).hp = 0x00 :=
  rfl
@[simp] theorem coreClear_x (s : State) : (coreClear s).x = s.x :=
  rfl
@[simp] theorem coreClear_y (s : State) : (coreClear s).y = 7 :=
  rfl
@[simp] theorem coreClear_out (s : State) : (coreClear s).out = s.out :=
  rfl
@[simp] theorem coreClear_fresh (s : State) : (coreClear s).fresh = s.fresh :=
  rfl
@[simp] theorem coreClear_turns (s : State) : (coreClear s).turns = s.turns :=
  rfl
@[simp] theorem coreClear_answers (s : State) : (coreClear s).answers = s.answers :=
  rfl

/-! RESET (R130). -/

@[simp] theorem hostReset_phase (s : State) : (hostReset s).phase = .idle :=
  rfl
@[simp] theorem hostReset_err (s : State) : (hostReset s).err = Config.freeErr s.fresh :=
  rfl
@[simp] theorem hostReset_len (s : State) : (hostReset s).len = Config.freeLen s.fresh :=
  rfl
@[simp] theorem hostReset_pix (s : State) : (hostReset s).pix = [] :=
  rfl
@[simp] theorem hostReset_lp (s : State) : (hostReset s).lp = Config.freeLp s.fresh :=
  rfl
@[simp] theorem hostReset_hp (s : State) : (hostReset s).hp = Config.freeHp s.fresh :=
  rfl
@[simp] theorem hostReset_x (s : State) : (hostReset s).x = Config.freeX s.fresh :=
  rfl
@[simp] theorem hostReset_y (s : State) : (hostReset s).y = Config.freeY s.fresh :=
  rfl
@[simp] theorem hostReset_out (s : State) : (hostReset s).out = [] :=
  rfl
@[simp] theorem hostReset_fresh (s : State) : (hostReset s).fresh = s.fresh + 1 :=
  rfl
@[simp] theorem hostReset_turns (s : State) : (hostReset s).turns = s.turns :=
  rfl
@[simp] theorem hostReset_answers (s : State) : (hostReset s).answers = s.answers :=
  rfl

/-! START (R91). -/

@[simp] theorem hostStart_phase (s : State) (grid : List Nat) : (hostStart grid s).phase = .check :=
  rfl
@[simp] theorem hostStart_err (s : State) (grid : List Nat) : (hostStart grid s).err = Config.freeErr s.fresh :=
  rfl
@[simp] theorem hostStart_len (s : State) (grid : List Nat) : (hostStart grid s).len = grid.length :=
  rfl
@[simp] theorem hostStart_pix (s : State) (grid : List Nat) : (hostStart grid s).pix = Memory.ofList 0 (grid.take Config.tilePixels) :=
  rfl
@[simp] theorem hostStart_lp (s : State) (grid : List Nat) : (hostStart grid s).lp = Config.freeLp s.fresh :=
  rfl
@[simp] theorem hostStart_hp (s : State) (grid : List Nat) : (hostStart grid s).hp = Config.freeHp s.fresh :=
  rfl
@[simp] theorem hostStart_x (s : State) (grid : List Nat) : (hostStart grid s).x = Config.freeX s.fresh :=
  rfl
@[simp] theorem hostStart_y (s : State) (grid : List Nat) : (hostStart grid s).y = Config.freeY s.fresh :=
  rfl
@[simp] theorem hostStart_out (s : State) (grid : List Nat) : (hostStart grid s).out = [] :=
  rfl
@[simp] theorem hostStart_fresh (s : State) (grid : List Nat) : (hostStart grid s).fresh = s.fresh + 1 :=
  rfl
@[simp] theorem hostStart_turns (s : State) (grid : List Nat) : (hostStart grid s).turns = s.turns :=
  rfl
@[simp] theorem hostStart_answers (s : State) (grid : List Nat) : (hostStart grid s).answers = s.answers :=
  rfl

/-! The observation (R98). -/

@[simp] theorem hostObserve_phase (s : State) : (hostObserve s).phase = s.phase :=
  rfl
@[simp] theorem hostObserve_err (s : State) : (hostObserve s).err = s.err :=
  rfl
@[simp] theorem hostObserve_len (s : State) : (hostObserve s).len = s.len :=
  rfl
@[simp] theorem hostObserve_pix (s : State) : (hostObserve s).pix = s.pix :=
  rfl
@[simp] theorem hostObserve_lp (s : State) : (hostObserve s).lp = s.lp :=
  rfl
@[simp] theorem hostObserve_hp (s : State) : (hostObserve s).hp = s.hp :=
  rfl
@[simp] theorem hostObserve_x (s : State) : (hostObserve s).x = s.x :=
  rfl
@[simp] theorem hostObserve_y (s : State) : (hostObserve s).y = s.y :=
  rfl
@[simp] theorem hostObserve_out (s : State) : (hostObserve s).out = s.out :=
  rfl
@[simp] theorem hostObserve_fresh (s : State) : (hostObserve s).fresh = s.fresh :=
  rfl
@[simp] theorem hostObserve_turns (s : State) : (hostObserve s).turns = s.turns :=
  rfl
@[simp] theorem hostObserve_answers (s : State) : (hostObserve s).answers = s.answers ++ [.status s.status s.ready] :=
  rfl

/-! Placing a word at `(X, Y)`. -/

@[simp] theorem State.placeWord_phase (s : State) (w : Nat) : (s.placeWord w).phase = s.phase :=
  rfl
@[simp] theorem State.placeWord_err (s : State) (w : Nat) : (s.placeWord w).err = s.err :=
  rfl
@[simp] theorem State.placeWord_len (s : State) (w : Nat) : (s.placeWord w).len = s.len :=
  rfl
@[simp] theorem State.placeWord_pix (s : State) (w : Nat) : (s.placeWord w).pix = s.pix.write (pixIndex s.x s.y).toNat w :=
  rfl
@[simp] theorem State.placeWord_lp (s : State) (w : Nat) : (s.placeWord w).lp = s.lp :=
  rfl
@[simp] theorem State.placeWord_hp (s : State) (w : Nat) : (s.placeWord w).hp = s.hp :=
  rfl
@[simp] theorem State.placeWord_x (s : State) (w : Nat) : (s.placeWord w).x = s.x :=
  rfl
@[simp] theorem State.placeWord_y (s : State) (w : Nat) : (s.placeWord w).y = s.y :=
  rfl
@[simp] theorem State.placeWord_out (s : State) (w : Nat) : (s.placeWord w).out = s.out :=
  rfl
@[simp] theorem State.placeWord_fresh (s : State) (w : Nat) : (s.placeWord w).fresh = s.fresh :=
  rfl
@[simp] theorem State.placeWord_turns (s : State) (w : Nat) : (s.placeWord w).turns = s.turns :=
  rfl
@[simp] theorem State.placeWord_answers (s : State) (w : Nat) : (s.placeWord w).answers = s.answers :=
  rfl

/-! CHECK (R92) keeps all but `ERR`, `X` and `PHASE`. -/

@[simp] theorem coreCheck_len (s : State) : (coreCheck s).len = s.len :=
  by unfold coreCheck; split <;> rfl
@[simp] theorem coreCheck_pix (s : State) : (coreCheck s).pix = s.pix :=
  by unfold coreCheck; split <;> rfl
@[simp] theorem coreCheck_lp (s : State) : (coreCheck s).lp = s.lp :=
  by unfold coreCheck; split <;> rfl
@[simp] theorem coreCheck_hp (s : State) : (coreCheck s).hp = s.hp :=
  by unfold coreCheck; split <;> rfl
@[simp] theorem coreCheck_y (s : State) : (coreCheck s).y = s.y :=
  by unfold coreCheck; split <;> rfl
@[simp] theorem coreCheck_out (s : State) : (coreCheck s).out = s.out :=
  by unfold coreCheck; split <;> rfl
@[simp] theorem coreCheck_fresh (s : State) : (coreCheck s).fresh = s.fresh :=
  by unfold coreCheck; split <;> rfl
@[simp] theorem coreCheck_turns (s : State) : (coreCheck s).turns = s.turns :=
  by unfold coreCheck; split <;> rfl
@[simp] theorem coreCheck_answers (s : State) : (coreCheck s).answers = s.answers :=
  by unfold coreCheck; split <;> rfl

/-! The end of a pixel (R93) keeps all but `Y` and `PHASE`. -/

@[simp] theorem State.finishPixel_err (s : State) : (s.finishPixel).err = s.err :=
  by unfold State.finishPixel; split <;> rfl
@[simp] theorem State.finishPixel_len (s : State) : (s.finishPixel).len = s.len :=
  by unfold State.finishPixel; split <;> rfl
@[simp] theorem State.finishPixel_pix (s : State) : (s.finishPixel).pix = s.pix :=
  by unfold State.finishPixel; split <;> rfl
@[simp] theorem State.finishPixel_lp (s : State) : (s.finishPixel).lp = s.lp :=
  by unfold State.finishPixel; split <;> rfl
@[simp] theorem State.finishPixel_hp (s : State) : (s.finishPixel).hp = s.hp :=
  by unfold State.finishPixel; split <;> rfl
@[simp] theorem State.finishPixel_x (s : State) : (s.finishPixel).x = s.x :=
  by unfold State.finishPixel; split <;> rfl
@[simp] theorem State.finishPixel_out (s : State) : (s.finishPixel).out = s.out :=
  by unfold State.finishPixel; split <;> rfl
@[simp] theorem State.finishPixel_fresh (s : State) : (s.finishPixel).fresh = s.fresh :=
  by unfold State.finishPixel; split <;> rfl
@[simp] theorem State.finishPixel_turns (s : State) : (s.finishPixel).turns = s.turns :=
  by unfold State.finishPixel; split <;> rfl
@[simp] theorem State.finishPixel_answers (s : State) : (s.finishPixel).answers = s.answers :=
  by unfold State.finishPixel; split <;> rfl

/-! EMIT (R88) keeps all but `OUT`, `X` and `PHASE`. -/

@[simp] theorem coreEmit_err (s : State) : (coreEmit s).err = s.err :=
  by unfold coreEmit; split <;> rfl
@[simp] theorem coreEmit_len (s : State) : (coreEmit s).len = s.len :=
  by unfold coreEmit; split <;> rfl
@[simp] theorem coreEmit_pix (s : State) : (coreEmit s).pix = s.pix :=
  by unfold coreEmit; split <;> rfl
@[simp] theorem coreEmit_lp (s : State) : (coreEmit s).lp = s.lp :=
  by unfold coreEmit; split <;> rfl
@[simp] theorem coreEmit_hp (s : State) : (coreEmit s).hp = s.hp :=
  by unfold coreEmit; split <;> rfl
@[simp] theorem coreEmit_y (s : State) : (coreEmit s).y = s.y :=
  by unfold coreEmit; split <;> rfl
@[simp] theorem coreEmit_fresh (s : State) : (coreEmit s).fresh = s.fresh :=
  by unfold coreEmit; split <;> rfl
@[simp] theorem coreEmit_turns (s : State) : (coreEmit s).turns = s.turns :=
  by unfold coreEmit; split <;> rfl
@[simp] theorem coreEmit_answers (s : State) : (coreEmit s).answers = s.answers :=
  by unfold coreEmit; split <;> rfl

@[simp] theorem coreEmit_out (s : State) : (coreEmit s).out =
    (s.out.write (lowIndex s.x).toNat s.lp).write (highIndex s.x).toNat s.hp := by
  unfold coreEmit; split <;> rfl

/-! Standing before a pixel keeps all but `PHASE`, `LEN`, `X` and `Y`. -/

@[simp] theorem State.beforePixel_err (s : State) : (s.beforePixel).err = s.err :=
  by unfold State.beforePixel; split <;> rfl
@[simp] theorem State.beforePixel_pix (s : State) : (s.beforePixel).pix = s.pix :=
  by unfold State.beforePixel; split <;> rfl
@[simp] theorem State.beforePixel_lp (s : State) : (s.beforePixel).lp = s.lp :=
  by unfold State.beforePixel; split <;> rfl
@[simp] theorem State.beforePixel_hp (s : State) : (s.beforePixel).hp = s.hp :=
  by unfold State.beforePixel; split <;> rfl
@[simp] theorem State.beforePixel_out (s : State) : (s.beforePixel).out = s.out :=
  by unfold State.beforePixel; split <;> rfl
@[simp] theorem State.beforePixel_fresh (s : State) : (s.beforePixel).fresh = s.fresh :=
  by unfold State.beforePixel; split <;> rfl
@[simp] theorem State.beforePixel_turns (s : State) : (s.beforePixel).turns = s.turns :=
  by unfold State.beforePixel; split <;> rfl
@[simp] theorem State.beforePixel_answers (s : State) : (s.beforePixel).answers = s.answers :=
  by unfold State.beforePixel; split <;> rfl

@[simp] theorem State.beforePixel_phase (s : State) : s.beforePixel.phase = .acc := by
  unfold State.beforePixel; split <;> simp_all

end Sys2Proof.Machine
end

