-- ==== Sys2Proof/Laws/Step.lean ====
section
/-!
SUPPORT. What a step can do, said once: one lemma per CORE step, the cases of `coreStep`, of `hostStep` and of `step`.
-/

namespace Sys2Proof.Machine

@[simp] theorem State.pixRead_eq (s : State) (x y : BitVec 3) :
    s.pixRead (pixIndex x y) = s.pix.read (8 * x.toNat + y.toNat) := by
  simp [State.pixRead]

theorem State.finishPixel_of_zero {s : State} (h : s.y = 0) :
    s.finishPixel = { s with phase := .emit } := if_pos h

theorem State.finishPixel_of_ne_zero {s : State} (h : s.y ≠ 0) :
    s.finishPixel = { s with y := s.y - 1 } := if_neg h

/-- The end of a pixel (R93): at position 0 the group ends, else the position moves down by one. -/
theorem State.finishPixel_cases (s : State) :
    (s.y = 0 ∧ s.finishPixel.phase = .emit ∧ s.finishPixel.y = s.y) ∨
      (s.y ≠ 0 ∧ s.finishPixel.phase = s.phase ∧ s.finishPixel.y.toNat + 1 = s.y.toNat) := by
  by_cases h : s.y = 0
  · rw [State.finishPixel_of_zero h]
    exact .inl ⟨h, rfl, rfl⟩
  · rw [State.finishPixel_of_ne_zero h]
    refine .inr ⟨h, rfl, ?_⟩
    exact (show ∀ y : BitVec 3, y ≠ 0 → (y - 1).toNat + 1 = y.toNat by decide) s.y h

/-- CHECK (R92): group 0 begins, or the run fails with LENGTH. -/
theorem coreCheck_cases (s : State) :
    (s.len = 64 ∧ (coreCheck s).phase = .clear ∧ (coreCheck s).x = 0 ∧ (coreCheck s).err = s.err) ∨
      (s.len ≠ 64 ∧ (coreCheck s).phase = .fail ∧ (coreCheck s).x = s.x ∧
        (coreCheck s).err = .length) := by
  unfold coreCheck
  by_cases h : s.len = 64 <;> simp [h, Config.tilePixels]

/-- EMIT (R88): the run ends at group 7, else the next group begins. -/
theorem coreEmit_cases (s : State) :
    (s.x = 7 ∧ (coreEmit s).phase = .done ∧ (coreEmit s).x = s.x) ∨
      (s.x ≠ 7 ∧ (coreEmit s).phase = .clear ∧ (coreEmit s).x.toNat = s.x.toNat + 1) := by
  by_cases h : s.x = 7
  · have e := show coreEmit s = { (s.outWrite (lowIndex s.x) s.lp).outWrite (highIndex s.x) s.hp with
      phase := .done } from if_pos h
    exact .inl ⟨h, by rw [e], by rw [e]; rfl⟩
  · have e := show coreEmit s = { (s.outWrite (lowIndex s.x) s.lp).outWrite (highIndex s.x) s.hp with
      x := s.x + 1, phase := .clear } from if_neg h
    refine .inr ⟨h, by rw [e], ?_⟩
    rw [e]
    exact (show ∀ x : BitVec 3, x ≠ 7 → (x + 1).toNat = x.toNat + 1 by decide) s.x h

/-- The bytes of `OUT` after EMIT (R88). -/
theorem coreEmit_read (s : State) (j : Nat) :
    (coreEmit s).out.read j = if j = 2 * s.x.toNat + 1 then some s.hp
      else if j = 2 * s.x.toNat then some s.lp else s.out.read j := by
  simp [Memory.read_write]

/-- ACC (R93) by the decoder of R74: refused on an undefined word, else a failure or a packed pixel. -/
theorem coreAcc_eq (s : State) :
    coreAcc s = match s.pix.read (8 * s.x.toNat + s.y.toNat) with
      | none => .refused .undefinedPixel
      | some w => match decodePair w with
        | .error k => .next (s.fail k)
        | .ok (lo, hi) => .next (s.accumulate lo hi).finishPixel := by
  simp only [coreAcc, State.pixRead_eq]
  cases s.pix.read (8 * s.x.toNat + s.y.toNat) with
  | none => rfl
  | some w =>
    simp only [decodePair_eq_decode]
    cases decode w with
    | error k => rfl
    | ok i => simp [exec_eq]

/-- Everything a CORE step can do (R94). -/
theorem coreStep_cases {s t : State} (h : coreStep s = .next t) :
    (s.ready = true ∧ t = s) ∨
      (s.phase = .check ∧ t = coreCheck s) ∨
      (s.phase = .clear ∧ t = coreClear s) ∨
      (s.phase = .acc ∧ ∃ w, s.pix.read (8 * s.x.toNat + s.y.toNat) = some w ∧
        ((∃ k, decodePair w = .error k ∧ t = s.fail k) ∨
          ∃ lo hi, decodePair w = .ok (lo, hi) ∧ t = (s.accumulate lo hi).finishPixel)) ∨
      (s.phase = .emit ∧ t = coreEmit s) := by
  unfold coreStep at h
  split at h <;> rename_i hp
  · cases h; exact .inl ⟨by simp [State.ready, Phase.ready, hp], rfl⟩
  · cases h; exact .inr (.inl ⟨hp, rfl⟩)
  · cases h; exact .inr (.inr (.inl ⟨hp, rfl⟩))
  · refine .inr (.inr (.inr (.inl ⟨hp, ?_⟩)))
    rw [coreAcc_eq] at h
    split at h
    · cases h
    · rename_i w hw
      refine ⟨w, hw, ?_⟩
      split at h <;> rename_i hd
      · cases h; exact .inl ⟨_, hd, rfl⟩
      · cases h; exact .inr ⟨_, _, hd, rfl⟩
  · cases h; exact .inr (.inr (.inr (.inr ⟨hp, rfl⟩)))
  · cases h; exact .inl ⟨by simp [State.ready, Phase.ready, hp], rfl⟩
  · cases h; exact .inl ⟨by simp [State.ready, Phase.ready, hp], rfl⟩

/-- A ready block waits. -/
theorem coreStep_of_ready {s : State} (h : s.ready = true) : coreStep s = .next s := by
  unfold State.ready at h
  unfold coreStep
  cases hp : s.phase <;> rw [hp] at h <;> first | rfl | cases h

/-- The CORE's step does not depend on the turns to come nor on what the host was handed. -/
theorem coreStep_withHost (s : State) (ts : List Turn) (as : List Answer) :
    coreStep { s with turns := ts, answers := as } = match coreStep s with
      | .next t => .next { t with turns := ts, answers := as }
      | .fault r => .fault r
      | .refused r => .refused r := by
  obtain ⟨phase, err, len, pix, lp, hp, x, y, out, fresh, turns, answers⟩ := s
  cases phase with
  | check => simp only [coreStep, coreCheck]; split <;> rfl
  | acc =>
    simp only [coreStep, coreAcc_eq]
    cases pix.read (8 * x.toNat + y.toNat) with
    | none => rfl
    | some w =>
      cases hd : decodePair w with
      | error k => simp only [hd]; rfl
      | ok p =>
        simp only [hd]
        by_cases hy : y = 0
        · rw [State.finishPixel_of_zero, State.finishPixel_of_zero] <;> first | exact hy | rfl
        · rw [State.finishPixel_of_ne_zero, State.finishPixel_of_ne_zero] <;> first | exact hy | rfl
  | emit => simp only [coreStep, coreEmit, State.outWrite]; split <;> rfl
  | _ => rfl

/-- The CORE's step leaves the turns and the answers. -/
theorem coreStep_host {s t : State} (h : coreStep s = .next t) :
    t.turns = s.turns ∧ t.answers = s.answers ∧ t.fresh = s.fresh := by
  rcases coreStep_cases h with ⟨_, rfl⟩ | ⟨_, rfl⟩ | ⟨_, rfl⟩ | ⟨_, w, _, ⟨k, _, rfl⟩ | ⟨lo, hi, _, rfl⟩⟩ | ⟨_, rfl⟩
  all_goals simp

/-- The CORE's step keeps `LEN` and `PIX`. -/
theorem coreStep_input {s t : State} (h : coreStep s = .next t) : t.len = s.len ∧ t.pix = s.pix := by
  rcases coreStep_cases h with ⟨_, rfl⟩ | ⟨_, rfl⟩ | ⟨_, rfl⟩ | ⟨_, w, _, ⟨k, _, rfl⟩ | ⟨lo, hi, _, rfl⟩⟩ | ⟨_, rfl⟩
  all_goals simp

/-- Everything a host action that is enabled can do (R140). -/
theorem hostStep_cases {a : HostAction} {s t : State} (h : hostStep a s = .next t) :
    (a = .reset ∧ t = hostReset s) ∨ (∃ grid, a = .start grid ∧ t = hostStart grid s) ∨
      (a = .observe ∧ t = hostObserve s) ∨
      (a = .readResult ∧ ∃ r, s.result = some r ∧ t = s.answer (.result r)) := by
  cases a with
  | reset => cases h; exact .inl ⟨rfl, rfl⟩
  | start grid => cases h; exact .inr (.inl ⟨grid, rfl, rfl⟩)
  | observe => cases h; exact .inr (.inr (.inl ⟨rfl, rfl⟩))
  | readResult =>
    refine .inr (.inr (.inr ⟨rfl, ?_⟩))
    simp only [hostStep, hostReadResult] at h
    split at h
    · cases h; exact ⟨_, ‹_›, rfl⟩
    · cases h

/-- Everything a step can do: a CORE step, on the state as it is or with the CORE's turn used up, or a
host action that is enabled. -/
theorem step_cases {s t : State} (h : step s = .next t) :
    coreStep s = .next t ∨
      (∃ rest, s.turns = .core :: rest ∧ coreStep { s with turns := rest } = .next t) ∨
      ∃ a rest, s.turns = .host a :: rest ∧ a.enabled s.phase = true ∧
        hostStep a { s with turns := rest } = .next t := by
  unfold step turnStep at h
  split at h
  · exact .inl h
  · exact .inr (.inl ⟨_, ‹_›, h⟩)
  · split at h
    · exact .inr (.inr ⟨_, _, ‹_›, ‹_›, h⟩)
    · exact .inl h

theorem step_of_no_turn {s : State} (h : s.turns = []) : step s = coreStep s := by
  simp [step, turnStep, h]

theorem step_of_core_turn {s : State} {rest : List Turn} (h : s.turns = .core :: rest) :
    step s = coreStep { s with turns := rest } := by
  simp [step, turnStep, h]

theorem step_of_enabled {s : State} {a : HostAction} {rest : List Turn}
    (h : s.turns = .host a :: rest) (he : a.enabled s.phase = true) :
    step s = hostStep a { s with turns := rest } := by
  simp [step, turnStep, h, he]

theorem step_of_disabled {s : State} {a : HostAction} {rest : List Turn}
    (h : s.turns = .host a :: rest) (he : a.enabled s.phase = false) : step s = coreStep s := by
  simp [step, turnStep, h, he]

end Sys2Proof.Machine
end

