-- ==== Sys2Proof/Laws/Planes.lean ====
section
/-!
SUPPORT. The closed form of a plane byte: how one update extends it, what the bytes EMIT writes add to `OUT`, what
`Holds` says of a single entry, and the groups of the reference function.
-/

namespace Sys2Proof.Machine

theorem decodePair_of_legal {w : Nat} (h : w ≤ 3) :
    decodePair w = .ok (contribution (w.testBit 0), contribution (w.testBit 1)) := by
  rw [decodePair_by_value, if_neg (by omega), if_neg (by omega), bitPair_ofNat]

theorem decodePair_of_bad {w : Nat} (h : 3 < w) : decodePair w = .error (causeOf w) := by
  rw [decodePair_by_value]
  unfold causeOf
  by_cases h' : 255 < w <;> simp [h, h']

/-- The word at `(X, Y)` is the one at place `8*X + (7 - Y)` of the fetch order (R14). -/
theorem fetched_position (g : List Nat) (x y : BitVec 3) :
    fetched g (8 * x.toNat + (7 - y.toNat)) = g.getD (8 * x.toNat + y.toNat) 0 := by
  have := x.isLt
  have := y.isLt
  unfold fetched fetchIndex
  congr 1
  omega

theorem LegalUpTo.succ {g : List Nat} {n : Nat} (h : LegalUpTo g n) (hn : fetched g n ≤ 3) :
    LegalUpTo g (n + 1) := by
  intro k hk
  rcases Nat.lt_succ_iff_lt_or_eq.mp hk with hlt | rfl
  · exact h k hlt
  · exact hn

/-- After CLEAR the accumulators have the form for no position packed. -/
theorem planeAfter_clear (g : List Nat) (x p : Nat) : PlaneAfter g x 0 p 0x00 := by
  intro b hb
  simp
  omega

/-- One update packs one position more: the next pixel of the group, downwards (R80, R87). -/
theorem PlaneAfter.update {g : List Nat} {x k p : Nat} {a : Byte} (hk : k ≤ 7)
    (h : PlaneAfter g x k p a) :
    PlaneAfter g x (k + 1) p
      (acc a (contribution ((g.getD (8 * x + (7 - k)) 0).testBit p))) := by
  intro b hb
  rw [getLsbD_acc_contribution _ _ hb]
  by_cases h7 : b = 7
  · subst h7
    rw [if_pos rfl, show 15 - (k + 1) - 7 = 7 - k by omega]
    simp [show 8 ≤ 7 + (k + 1) by omega]
  · rw [if_neg h7, h (b + 1) (by omega), show 15 - k - (b + 1) = 15 - (k + 1) - b by omega,
      show b + 1 + k = b + (k + 1) by omega]

theorem Holds.length {s : State} {g : List Nat} (h : Holds s g) : g.length = 64 :=
  ((Memory.readList_zero_eq_some _ _ _).mp h).1

theorem Holds.read {s : State} {g : List Nat} (h : Holds s g) {i : Nat} (hi : i < 64) :
    s.pix.read i = some (g.getD i 0) := by
  obtain ⟨hlen, hall⟩ := (Memory.readList_zero_eq_some _ _ _).mp h
  rw [hall i hi, List.getD_eq_getElem?_getD, List.getElem?_eq_getElem (by omega)]
  rfl

theorem Holds.unique {s : State} {g g' : List Nat} (h : Holds s g) (h' : Holds s g') : g = g' :=
  Option.some.inj (h.symm.trans h')

/-- EMIT of finished accumulators adds its group to what is emitted (R88). -/
theorem Emitted.emit {s : State} {g : List Nat} (h : Emitted s g s.x.toNat)
    (hl : PlaneAfter g s.x.toNat 8 0 s.lp) (hh : PlaneAfter g s.x.toNat 8 1 s.hp) :
    Emitted (coreEmit s) g (s.x.toNat + 1) := by
  refine ⟨fun x hx => ?_, fun j hj => ?_⟩
  · rw [coreEmit_read, coreEmit_read]
    rcases Nat.lt_succ_iff_lt_or_eq.mp hx with hlt | rfl
    · rw [if_neg (by omega), if_neg (by omega), if_neg (by omega), if_neg (by omega)]
      exact h.1 x hlt
    · exact ⟨s.lp, s.hp, by simp, by simp, hl, hh⟩
  · rw [coreEmit_read, if_neg (by omega), if_neg (by omega)]
    exact h.2 j (by omega)

/-- The reference function on the rest of a group whose words are legal (R99 step 2b). -/
theorem packPositions_of_legal (g : List Nat) (x : Nat) :
    ∀ n lp hp, n ≤ 8 → PlaneAfter g x (8 - n) 0 lp → PlaneAfter g x (8 - n) 1 hp →
      (∀ y < n, g.getD (8 * x + y) 0 ≤ 3) →
      ∃ l h, packPositions g x n lp hp = .ok (l, h) ∧
        PlaneAfter g x 8 0 l ∧ PlaneAfter g x 8 1 h := by
  intro n
  induction n with
  | zero => intro lp hp _ h0 h1 _; exact ⟨lp, hp, rfl, h0, h1⟩
  | succ n ih =>
    intro lp hp hn h0 h1 hleg
    simp only [packPositions, decodePair_of_legal (hleg n (by omega))]
    have p0 := h0.update (by omega)
    have p1 := h1.update (by omega)
    rw [show 7 - (8 - (n + 1)) = n by omega, show 8 - (n + 1) + 1 = 8 - n by omega] at p0 p1
    exact ih _ _ (by omega) p0 p1 fun y hy => hleg y (by omega)

/-- The reference function on the rest of a group with a bad word: the highest position decides. -/
theorem packPositions_of_bad (g : List Nat) (x m : Nat) (hb : 3 < g.getD (8 * x + m) 0) :
    ∀ n lp hp, m < n → (∀ y, m < y → y < n → g.getD (8 * x + y) 0 ≤ 3) →
      packPositions g x n lp hp = .error (causeOf (g.getD (8 * x + m) 0)) := by
  intro n
  induction n with
  | zero => intro lp hp h; omega
  | succ n ih =>
    intro lp hp h hleg
    rcases Nat.lt_succ_iff_lt_or_eq.mp h with hlt | rfl
    · simp only [packPositions, decodePair_of_legal (hleg n hlt (by omega))]
      exact ih _ _ hlt fun y hy hy' => hleg y hy (by omega)
    · simp only [packPositions, decodePair_of_bad hb]

theorem firstBad_eq_some {g : List Nat} {j : Nat} (hj : j < 64) (hl : LegalUpTo g j)
    (hb : 3 < fetched g j) : firstBad g = some j := by
  unfold firstBad
  rw [List.find?_range_eq_some]
  refine ⟨by simpa using hb, by simpa using hj, fun k hk => ?_⟩
  have := hl k hk
  simp
  omega

theorem firstBad_eq_none {g : List Nat} (hl : LegalUpTo g 64) : firstBad g = none := by
  unfold firstBad
  rw [List.find?_range_eq_none]
  intro k hk
  have := hl k hk
  simp
  omega

end Sys2Proof.Machine
end

