-- ==== Sys2Proof/Laws/Run.lean ====
section
/-!
SUPPORT. Runs of several steps: one step more at either end, runs joined, and a ready block with no turn to come.
-/

namespace Sys2Proof.Machine

@[simp] theorem State.run_zero (s : State) : s.run 0 = .next s := rfl

/-- One step more at the front. -/
theorem State.run_of_step {s t : State} (h : step s = .next t) (n : Nat) : s.run (n + 1) = t.run n := by
  have h' : Sys2Proof.core.step s = .next t := h
  simp only [State.run, Host.Core.run, h']
  rfl

/-- One step more at the end. -/
theorem State.run_succ (s : State) (n : Nat) :
    s.run (n + 1) = match s.run n with
      | .next t => step t
      | .fault r => .fault r
      | .refused r => .refused r := by
  induction n generalizing s with
  | zero =>
    cases h : step s with
    | next t => rw [State.run_of_step h]; simp [h]
    | fault r => nomatch r
    | refused r =>
      have h' : Sys2Proof.core.step s = .refused r := h
      simp only [State.run, Host.Core.run, h', h]
      rfl
  | succ n ih =>
    cases h : step s with
    | next t => rw [State.run_of_step h, State.run_of_step h, ih]
    | fault r => nomatch r
    | refused r =>
      have h' : Sys2Proof.core.step s = .refused r := h
      simp only [State.run, Host.Core.run, h']
      rfl

/-- Two runs joined. -/
theorem State.run_add {s t : State} {m : Nat} (h : s.run m = .next t) (n : Nat) :
    s.run (m + n) = t.run n := by
  induction n with
  | zero => exact h
  | succ n ih => rw [← Nat.add_assoc, State.run_succ, ih, State.run_succ]

/-- A ready block with no turn to come waits for ever (R96, R122). -/
theorem State.run_of_ready {t : State} (hr : t.ready = true) (ht : t.turns = []) (n : Nat) :
    t.run n = .next t := by
  induction n with
  | zero => rfl
  | succ n ih =>
    rw [State.run_succ, ih]
    exact (step_of_no_turn ht).trans (coreStep_of_ready hr)

end Sys2Proof.Machine
end

