-- ==== Sys2Proof/Machine/Listing.lean ====
section
/-!
DEFINITION. The textual forms of spec/30_encoding.md R59: the listing of a grid, of an encoded tile, of a grid as a
program of pixel instructions, and the shorthand for a repeated value. No step of the machine uses them.
-/

namespace Sys2Proof.Machine

/-- The shorthand `v*n` of R59: `n` consecutive copies of `v`. -/
def repeated (v n : Nat) : List Nat := List.replicate n v

/-- The words of a grid eight to a line, at most `fuel` lines: line `k` is group `k` (R59 (a), C1). -/
def listingLines (fuel : Nat) (ws : List Nat) : List (List Nat) :=
  match fuel, ws with
  | 0, _ => []
  | _, [] => []
  | fuel + 1, w :: rest => (w :: rest).take 8 :: listingLines fuel ((w :: rest).drop 8)

/-- The listing of a grid (R59 (a)): decimal values in linear index order, eight to a line. -/
def gridListing (ws : List Nat) : String :=
  String.intercalate ",\n"
    ((listingLines ws.length ws).map fun line => String.intercalate "," (line.map Nat.repr))

/-- One hexadecimal digit. -/
def hexDigit (n : Nat) : Char := if n < 10 then Char.ofNat (48 + n) else Char.ofNat (87 + n)

/-- A byte as two hexadecimal digits (R59 (b)). -/
def hexByte (b : Byte) : String :=
  String.ofList ['0', 'x', hexDigit (b.toNat / 16), hexDigit (b.toNat % 16)]

/-- The listing of an encoded tile (R59 (b)). -/
def tileListing (t : List Byte) : String := "[" ++ String.intercalate ", " (t.map hexByte) ++ "]"

/-- A pixel word by its mnemonic, where it is legal (R53, R59). -/
def wordListing (w : Nat) : String :=
  match decode w with
  | .ok i => i.mnemonic
  | .error _ => "(illegal)"

end Sys2Proof.Machine
end

