-- ==== Sys2Proof/Tests/Slice0.lean ====
section
/-!
SUPPORT. The model's own tests. Expected results are the spec's: its worked examples (rules R81 to R97 and
spec/95_test_vectors.md S1 to S5, parts 2 to 6) or words written out from spec/30_encoding.md R51 and R53.
Then, for each statement with hypotheses, a concrete state or operand that meets them.
-/

namespace Sys2Proof.Tests

open Sys2Proof Sys2Proof.Machine

/-- Does a step answer a next state of which a test holds? -/
def answers (o : Host.Outcome State Fault Refusal) (test : State → Bool) : Bool :=
  match o with
  | .next t => test t
  | .fault _ => false
  | .refused _ => false

/-- The grid of the worked tile S1. -/
def workedGrid : List Nat :=
  [0, 3, 3, 3, 3, 3, 0, 0, 2, 2, 0, 0, 0, 2, 2, 0, 1, 1, 0, 0, 0, 1, 1, 0,
    2, 2, 2, 2, 2, 2, 2, 0, 3, 3, 0, 0, 0, 3, 3, 0, 2, 2, 0, 0, 0, 2, 2, 0,
    1, 1, 0, 0, 0, 1, 1, 0, 0, 0, 0, 0, 0, 0, 0, 0]

/-- A small state in a given phase: the registers of the examples of R82 to R85, `PIX[7] = 3`, `PIX[0] = 2`. -/
def at_ (p : Phase) : State where
  phase := p
  err := .range
  len := 64
  pix := [(0, 2), (7, 3)]
  lp := 0x80
  hp := 0xC0
  x := 0
  y := 7
  out := []
  fresh := 1
  turns := []
  answers := []

/-! ## Well-formedness: each check refuses an ill-formed term -/

/-- R5: a pixel word has at least 2 bits, so an instance of width 1 has no instruction. -/
theorem test_width_one_refused : Instr.wellFormed 1 .px0 = false ∧ Config.pixwOk 1 = false := by decide

theorem test_width_two_accepted : Instr.wellFormed 2 .px3 = true := by decide

/-- R51: 4 is no word of width 2; R5: a length of 6 bits cannot hold 64. -/
theorem test_word_and_length_refused :
    wordFits 2 4 = false ∧ lengthFits 6 1 = false ∧ lengthFits 7 128 = false ∧
      startFits 2 7 [3, 4] = false ∧ startFits 8 7 [3, 4] = true := by decide

/-- R53, R58: a word of 4, a grid of 63 words and a grid with a bad word are no valid grids. -/
theorem test_invalid_grids_refused :
    wordLegal 4 = false ∧ validGrid (repeated 1 63) = false ∧
      validGrid (workedGrid.set 28 4) = false ∧ validGrid workedGrid = true := by decide

/-! ## The decoder: words written out from R51 and R53 -/

theorem test_decode_px0 : decodeTableWord 8 0b00000000 = some .px0 := by decide
theorem test_decode_px1 : decodeTableWord 8 0b00000001 = some .px1 := by decide
theorem test_decode_px2 : decodeTableWord 8 0b00000010 = some .px2 := by decide
theorem test_decode_px3 : decodeTableWord 8 0b00000011 = some .px3 := by decide
/-- The words of 16 bits of part 2 that a mask or a truncation would take for an instruction. -/
theorem test_decode_illegal :
    decode 0x0004 = .error .range ∧ decode 0x0007 = .error .range ∧ decode 0x00ff = .error .range ∧
      decode 0x0100 = .error .cast ∧ decode 0x0103 = .error .cast ∧ decode 0x01ff = .error .cast ∧
      decode 0x8000 = .error .cast := by decide

/-! ## The accumulators and the four instructions -/

/-- Part 3 of the test vectors. -/
theorem test_acc :
    acc 0x01 0x00 = 0x00 ∧ acc 0x01 0x80 = 0x80 ∧ acc 0xff 0x00 = 0x7f ∧ acc 0xff 0x80 = 0xff ∧
      acc 0xaa 0x80 = 0xd5 ∧ acc 0x55 0x00 = 0x2a := by decide

theorem test_px0 : answers (exec .px0 (at_ .acc)) (fun t => t.lp == 0x40 && t.hp == 0x60) = true := by
  decide
theorem test_px1 : answers (exec .px1 (at_ .acc)) (fun t => t.lp == 0xC0 && t.hp == 0x60) = true := by
  decide
theorem test_px2 : answers (exec .px2 (at_ .acc)) (fun t => t.lp == 0x40 && t.hp == 0xE0) = true := by
  decide
theorem test_px3 : answers (exec .px3 (at_ .acc)) (fun t => t.lp == 0xC0 && t.hp == 0xE0) = true := by
  decide

/-! ## The steps of the CORE -/

/-- The example of R81. -/
theorem test_clear :
    answers (step { at_ .clear with x := 3, lp := 0xFE, hp := 0x01 })
      (fun t => t.phase == .acc && t.x == 3 && t.y == 7 && t.lp == 0 && t.hp == 0) = true := by decide

/-- The examples of R92. -/
theorem test_check :
    answers (step { at_ .check with len := 63 }) (fun t => t.phase == .fail && t.err == .length) = true ∧
      answers (step (at_ .check)) (fun t => t.phase == .clear && t.x == 0) = true := by decide

/-- The examples of R93, and the pixel at position 0, which ends the group. -/
theorem test_acc_step :
    answers (step { at_ .acc with lp := 0, hp := 0 })
      (fun t => t.phase == .acc && t.y == 6 && t.lp == 0x80 && t.hp == 0x80) = true ∧
    answers (step { at_ .acc with pix := [(7, 4)] })
      (fun t => t.phase == .fail && t.err == .range && t.lp == 0x80 && t.y == 7) = true ∧
    answers (step { at_ .acc with y := 0 })
      (fun t => t.phase == .emit && t.y == 0 && t.lp == 0x40 && t.hp == 0xE0) = true := by decide

/-- The example of R88, and the last group. -/
theorem test_emit :
    answers (step { at_ .emit with x := 1, lp := 0x00, hp := 0xC6 })
      (fun t => t.phase == .clear && t.x == 2 && t.out == [(2, 0x00), (3, 0xC6)]) = true ∧
    answers (step { at_ .emit with x := 7 })
      (fun t => t.phase == .done && t.x == 7 && t.out == [(14, 0x80), (15, 0xC0)]) = true := by decide

/-- U4: a word nobody wrote is not read. -/
theorem test_undefined_pixel_refused :
    step { at_ .acc with y := 6 } = .refused .undefinedPixel := rfl

/-! ## The host -/

/-- The example of R91, and D16: a 65th word is not stored. -/
theorem test_start :
    answers (step { at_ .idle with turns := [.host (.start (repeated 1 65))] })
      (fun t => t.phase == .check && t.len == 65 && t.pix.read 63 == some 1 && t.pix.read 64 == none &&
        t.out == [] && t.turns == []) = true := by decide

/-- R134: a START on a busy block is not taken, the CORE moves. -/
theorem test_start_while_busy_stands :
    answers (step { at_ .clear with turns := [.host (.start [])] })
      (fun t => t.phase == .acc && t.len == 64 && t.turns == [.host (.start [])]) = true := by decide

/-- R130: RESET in the middle of a run. -/
theorem test_reset_while_busy :
    answers (step { at_ .emit with turns := [.host .reset, .core] })
      (fun t => t.phase == .idle && t.pix == [] && t.out == [] && t.turns == [.core]) = true := by decide

/-- R97 and R18: after a failure the cause alone, and the code 6 of RANGE. -/
theorem test_read_result_after_failure :
    answers (step { at_ .fail with out := [(0, 0x7c)], turns := [.host .readResult] })
      (fun t => t.answers == [.result (.err .range)] && t.phase == .fail && t.status.code == 6) = true := by
  decide

/-- P1: the tile in DONE. -/
theorem test_read_result_after_success :
    answers (step { at_ .done with out := Memory.ofList 0 (List.replicate 16 0x7c), turns := [.host .readResult] })
      (fun t => t.answers == [.result (.ok (List.replicate 16 0x7c))]) = true := by decide

/-- The first step after RESET runs a placed word. -/
theorem test_first_word_after_reset :
    answers (step (State.reset.withFetchWord 8 1)) (fun t => t.phase == .acc && t.y == 6) = true := by decide

/-! ## The reference function -/

/-- S1. -/
theorem test_worked_tile :
    encodeTile workedGrid = .ok [0x7c, 0x7c, 0x00, 0xc6, 0xc6, 0x00, 0x00, 0xfe,
      0xc6, 0xc6, 0x00, 0xc6, 0xc6, 0x00, 0x00, 0x00] := by decide

/-- P5, and S3 with P6: the precedence of the causes. -/
theorem test_precedence :
    encodeTile (((repeated 1 64).set 0 300).set 7 9) = .err .range ∧
      encodeTile (((repeated 1 64).set 0 9).set 7 300) = .err .cast ∧
      encodeTile (((repeated 1 64).set 0 300).set 15 9) = .err .cast ∧
      encodeTile (repeated 0xffff 65) = .err .length ∧ encodeTile [] = .err .length := by decide

/-- The run lengths of part 5 and of P4 that stand early in the fetch order. -/
theorem test_run_steps :
    runSteps (((repeated 1 64).set 0 300).set 7 9) = 3 ∧
      runSteps (((repeated 1 64).set 0 300).set 15 9) = 10 ∧ runSteps (workedGrid.set 28 4) = 36 ∧
      runSteps (repeated 0 128) = 1 := by decide +kernel

/-- The longest run that fails (part 5) and a run that succeeds (P1). -/
theorem test_longest_run_steps :
    runSteps ((repeated 3 64).set 56 255) = 80 ∧ runSteps workedGrid = 81 := by
  decide +kernel

/-- The false variant of 95_test_vectors.md: with position 0 at bit 0, `OUT[0]` of S1 would be 0x3e. -/
theorem test_reversed_bit_order_refuted :
    ¬ ∃ rest, encodeTile workedGrid = .ok (0x3e :: rest) := by
  rw [test_worked_tile]
  simp

/-- The listings of R59. -/
theorem test_listings :
    tileListing [0x7c, 0xc6] = "[0x7c, 0xc6]" ∧
      gridListing [0, 3, 3, 3, 3, 3, 0, 0, 2] = "0,3,3,3,3,3,0,0,\n2" ∧ wordListing 2 = "PX2" := by
  decide

/-! ## What meets the hypotheses of the statements -/

/-- DecodeEncodeAgree: the least width, and a legal word at the end of the range. -/
theorem witness_decode_encode :
    Instr.wellFormed 2 .px3 = true ∧ wordLegal 3 = true ∧ decode 3 = .ok .px3 := by decide

/-- NarrowingNeverTruncates: each clause at its boundary. -/
theorem witness_narrowing :
    255 < 256 ∧ 255 ≤ 255 ∧ (2 ≤ 16 ∧ 255 < 2 ^ 16) ∧ 2 ≤ 2 ∧ 3 < 2 ^ 2 := by decide

/-- RangeCheckNeverMasks: each clause at its boundary. -/
theorem witness_range_check :
    3 < (4 : Byte).toNat ∧ (3 : Byte).toNat ≤ 3 := by decide

/-- DecoderByValue: the two ranges at their ends, and both sides of its equivalences. -/
theorem witness_decoder_by_value :
    (4 ≤ 4 ∧ 255 ≤ 255 ∧ 256 ≤ 256) ∧ decodePair 255 = .error .range ∧ decodePair 256 = .error .cast ∧
      decodePair 3 = .ok (0x80, 0x80) := by decide

/-- FieldsDecideTheClass: each clause, and the least width. -/
theorem witness_fields :
    (2 ≤ 16 ∧ 0x103 < 2 ^ 16 ∧ czField 16 0x103 ≠ 0) ∧
      (czField 16 4 = 0 ∧ rzField 16 4 ≠ 0) ∧ (czField 2 3 = 0 ∧ rzField 2 3 = 0 ∧ 3 < 2 ^ 2) := by decide

/-- InstructionDecoderAgreesWithPairDecoder and FetchWordRunsNext: a word that decodes. -/
theorem witness_decodes : decode 2 = .ok .px2 ∧ decodeTableWord 8 2 = some .px2 := by decide

/-- WidthDecidesPossibleFailures: the widths where a failure becomes possible. -/
theorem witness_widths :
    2 ≤ 2 ∧ 2 ≤ 3 ∧ 2 ≤ 8 ∧ 2 ≤ 9 ∧ (255 < 2 ^ 8 ∧ 8 ≤ 8) ∧ 3 < 2 ^ 2 := by decide

/-- AccumulatorUpdate and ArithmeticNeverWraps: both contributions, and the least and the greatest bit. -/
theorem witness_contributions :
    (contribution false = 0x00) ∧ contribution true = 0x80 ∧ 0 ≤ 6 ∧ 6 ≤ 6 := by decide

/-- GroupClosedForm: one instruction and eight. -/
theorem witness_group :
    (1 ≤ [Instr.px3].length ∧ [Instr.px3].length ≤ 8) ∧
      1 ≤ (List.replicate 8 Instr.px1).length ∧ (List.replicate 8 Instr.px1).length ≤ 8 := by decide

/-- StepRunsDecodedPixel, CoreTurnIsThePhaseStep, AccPacksOnePixel: the CORE moves with no turn listed, at
position 0, and with its turn next, at position 7; a word that decodes and one that fails. -/
theorem witness_acc :
    CoreMoves { at_ .acc with y := 0 } { at_ .acc with y := 0 } ∧
      CoreMoves { at_ .acc with turns := [.core] } (at_ .acc) ∧
      (at_ .acc).phase = .acc ∧ (at_ .acc).pix.read 0 = some 2 ∧ (at_ .acc).pix.read 7 = some 3 ∧
      decode 2 = .ok .px2 ∧ decode 3 = .ok .px3 ∧ decodePair 3 = .ok (0x80, 0x80) ∧
      decodePair 4 = .error .range :=
  ⟨.inl ⟨rfl, rfl⟩, .inr ⟨[], rfl, rfl⟩, by decide⟩

/-- CheckTestsTheLength, ClearStartsAGroup, EmitAppendsTwoBytes, ReadyBlockWaitsBusyBlockMoves,
FetchOrderIsFixed: a state in the phase, with the lengths and groups where the clauses meet. -/
theorem witness_phases :
    ((at_ .check).phase = .check ∧ (at_ .check).len = 64 ∧ { at_ .check with len := 65 }.len ≠ 64) ∧
      (at_ .clear).phase = .clear ∧ (at_ .emit).x ≠ 7 ∧ ({ at_ .emit with x := 7 } : State).x = 7 ∧
      (at_ .emit).phase = .emit ∧ (at_ .idle).ready = true ∧ (at_ .acc).ready = false := by decide

/-- FetchOrderIsFixed: CORE steps from ACC to ACC and to EMIT, from EMIT to CLEAR, from CHECK to CLEAR, from
CLEAR to ACC. -/
theorem witness_fetch_order :
    answers (coreStep (at_ .acc)) (fun t => t.phase == .acc) = true ∧
      answers (coreStep { at_ .acc with y := 0 }) (fun t => t.phase == .emit) = true ∧
      answers (coreStep (at_ .emit)) (fun t => t.phase == .clear) = true ∧
      answers (coreStep (at_ .check)) (fun t => t.phase == .clear) = true ∧
      answers (coreStep (at_ .clear)) (fun t => t.phase == .acc) = true := by decide

/-- The statements on the host's actions: each action next, enabled and not. -/
theorem witness_host :
    { at_ .emit with turns := [.host .reset] }.turns = [.host .reset] ∧
      ((at_ .done).ready = true ∧ { at_ .done with turns := [.host (.start workedGrid)] }.turns =
        [.host (.start workedGrid)]) ∧
      ((at_ .acc).ready = false ∧ { at_ .acc with turns := [.host (.start [])] }.turns =
        [.host (.start [])]) ∧
      ((at_ .idle).phase ≠ .done ∧ (at_ .idle).phase ≠ .fail ∧
        { at_ .idle with turns := [.host .readResult] }.turns = [.host .readResult]) ∧
      { at_ .acc with turns := [.host .observe] }.turns = [.host .observe] := by decide

/-- ReadResultReturnsTileOrCause: a whole tile in DONE, a failure, and a tile with an undefined byte. -/
theorem witness_read_result :
    ((at_ .done).phase = .done ∧ (List.replicate 16 (0x7c : Byte)).length = 16 ∧
        ∀ j < 16, (Memory.ofList 0 (List.replicate 16 (0x7c : Byte))).read j =
          (List.replicate 16 (0x7c : Byte))[j]?) ∧
      (at_ .fail).phase = .fail ∧ (at_ .done).out.read 15 = none ∧ 15 < 16 := by decide

/-- StatusTable: every row has a state. -/
theorem witness_status :
    (at_ .idle).phase = .idle ∧ (at_ .emit).phase = .emit ∧ (at_ .done).phase = .done ∧
      ((at_ .fail).phase = .fail ∧ (at_ .fail).err = .range) ∧
      { at_ .fail with err := .length }.err = .length ∧ { at_ .fail with err := .cast }.err = .cast := by
  decide

/-- The whole-machine rules and the invariants: a step that is taken from a state that meets the invariant,
and one that changes `ERR`. -/
theorem witness_step :
    State.reset.Inv ∧ step State.reset = .next State.reset ∧
      (∃ t, step { at_ .check with len := 63 } = .next t ∧ t.err ≠ { at_ .check with len := 63 }.err) :=
  ⟨⟨rfl, trivial⟩, rfl, _, rfl, by decide⟩

/-- ReadyBlockWaitsBusyBlockMoves, EveryStepIsTaken, StepKeepsInvariant: the invariant in a busy phase. The
worked grid is loaded and the first group is to begin. -/
theorem witness_busy_invariant :
    (at_ .clear).ready = false ∧ State.Inv { at_ .clear with pix := Memory.ofList 0 workedGrid } :=
  ⟨rfl, by decide, rfl, workedGrid, by unfold Holds; decide, fun _ h => absurd h (by simp [at_]),
    fun _ h => absurd h (by simp [at_]), fun _ _ => rfl⟩

/-- ResultIsStableUntilStartOrReset: a ready block that takes a step. -/
theorem witness_ready_step : (at_ .done).ready = true ∧ step (at_ .done) = .next (at_ .done) :=
  ⟨rfl, rfl⟩

/-- ValidGridsAndOnlyTheySucceed, TileClosedForm, EncodingIsABijection: a valid grid and a tile. -/
theorem witness_tile :
    validGrid workedGrid = true ∧ (List.replicate 16 (0x7c : Byte)).length = 16 ∧ 7 < 8 := by decide

/-- FirstBadPixelDecidesTheCause: the first and the last place of the fetch order. -/
theorem witness_first_bad :
    (((repeated 0 64).set 7 4).length = 64 ∧ 3 < fetched ((repeated 0 64).set 7 4) 0 ∧
        LegalUpTo ((repeated 0 64).set 7 4) 0) ∧
      ((repeated 3 64).set 56 255).length = 64 ∧ 3 < fetched ((repeated 3 64).set 56 255) 63 ∧
      LegalUpTo ((repeated 3 64).set 56 255) 63 := by
  unfold LegalUpTo
  decide

/-- The statements on runs: a ready block with the turns they ask for, and runs that have ended. -/
theorem witness_runs :
    State.reset.ready = true ∧ State.reset.turns = [] ∧
      { State.reset with turns := [.host (.start workedGrid), .host .readResult] }.turns =
        [.host (.start workedGrid), .host .readResult] ∧
      answers ((hostStart [] State.reset).run 1) (fun t => t.ready) = true ∧
      answers ((hostStart [] (at_ .done)).run 2) (fun t => t.ready) = true ∧ 0 < runSteps [] := by decide

/-- InstancesAreIndependent: of two instances the second takes a step. -/
theorem witness_instances :
    ∃ t, stepInstance 1 [at_ .acc, at_ .clear] = .next [at_ .acc, t] ∧ t.phase = .acc :=
  ⟨_, rfl, rfl⟩

/-- ObservationDoesNotDisturbARun: a busy block with no turn to come that takes its step. -/
theorem witness_observation :
    (at_ .acc).turns = [] ∧ answers (step (at_ .acc)) (fun t => t.phase == .acc) = true := by decide

end Sys2Proof.Tests
end

section
/-!
The pixel decoder (spec/40_pixel_decode.md, R71 to R74): narrowing, the range check, the bit-pair map, and
the decoder made of the three in this order.
-/

namespace Sys2Proof

/-- A slice from bit 0 up that is wide enough for the word loses nothing of it (R6). -/
theorem slice_zero_of_lt {hi w : Nat} (h : w < 2 ^ (hi + 1)) : slice hi 0 w = w := by
  rw [slice, Nat.shiftRight_zero, Nat.sub_zero, Nat.mod_eq_of_lt h]

/-- A word of `pixw` bits with value at most 255 fits the shorter of its own width and a byte. -/
theorem lt_two_pow_min_eight {pixw w : Nat} (hw : w < 2 ^ pixw) (hb : w ≤ 255) :
    w < 2 ^ min pixw 8 := by
  rcases le_total pixw 8 with h | h
  · rwa [min_eq_left h]
  · rw [min_eq_right h]; omega

/-- The two low bits of a byte that is at most 3 have the byte's value: nothing is masked away. -/
theorem toNat_low_bits_of_le {v : Byte} (h : v.toNat ≤ 3) : (v.extractLsb' 0 2).toNat = v.toNat := by
  rw [BitVec.extractLsb'_toNat, Nat.shiftRight_zero, Nat.mod_eq_of_lt (by omega)]

namespace Machine

/-- The decoder fails exactly when narrowing fails, or the range check on the narrowed byte does. -/
theorem decodePair_eq_error_iff (w : Nat) (k : Cause) :
    decodePair w = .error k ↔
      narrow8 w = .error k ∨ ∃ v, narrow8 w = .ok v ∧ inRange v = .error k := by
  unfold decodePair
  cases narrow8 w with
  | error j => simp
  | ok v => cases hr : inRange v <;> simp [hr]

/-- The decoder succeeds exactly when both checks do, and gives the pair of the code they pass. -/
theorem decodePair_eq_ok_iff (w : Nat) (p : Byte × Byte) :
    decodePair w = .ok p ↔ ∃ v c, narrow8 w = .ok v ∧ inRange v = .ok c ∧ p = bitPair c := by
  unfold decodePair
  cases narrow8 w with
  | error j => simp
  | ok v => cases hr : inRange v <;> simp [hr, eq_comm]

/-- From 4 to 255 a word narrows and fails the range check. -/
theorem decodePair_of_out_of_range {w : Nat} (h4 : 4 ≤ w) (hb : w ≤ 255) :
    decodePair w = .error .range := by
  rw [decodePair_by_value, if_neg (by omega), if_pos (by omega)]

/-- From 256 on a word does not narrow. -/
theorem decodePair_of_not_narrowable {w : Nat} (h : 256 ≤ w) : decodePair w = .error .cast := by
  rw [decodePair_by_value, if_pos (by omega)]

/-- Settles O6: the two equivalences by the results of the checks, the table by the value of the word. -/
theorem decoderByValue : Obligations.DecoderByValue :=
  ⟨decodePair_eq_error_iff, decodePair_eq_ok_iff,
    decodePair_of_legal (w := 0) (by decide), decodePair_of_legal (w := 1) (by decide),
    decodePair_of_legal (w := 2) (by decide), decodePair_of_legal (w := 3) (by decide),
    fun _ => decodePair_of_out_of_range, fun _ => decodePair_of_not_narrowable⟩

/-- Settles O3: the byte made of the word has its value, and the slice of R71 is the whole word. -/
theorem narrowingNeverTruncates : Obligations.NarrowingNeverTruncates := by
  refine ⟨fun _ => narrow8_of_gt, fun w hb => ⟨_, narrow8_of_le hb, toNat_narrowed hb⟩, ?_⟩
  intro pixw w hp hw hb
  have hwidth : min pixw 8 - 1 + 1 = min pixw 8 := by omega
  have hslice : slice (min pixw 8 - 1) 0 w = w :=
    slice_zero_of_lt (hwidth.symm ▸ lt_two_pow_min_eight hw hb)
  rw [hslice, narrow8_of_le hb]

/-- Settles O4: a byte that passes is at most 3, so its two low bits are all of it. -/
theorem rangeCheckNeverMasks : Obligations.RangeCheckNeverMasks :=
  ⟨fun _ => inRange_of_gt, fun _ h => ⟨_, inRange_of_le h, toNat_low_bits_of_le h, rfl⟩⟩

/-- Settles O5: each row of R73 is the map's value at that code. -/
theorem bitPairMap : Obligations.BitPairMap :=
  ⟨bitPair_ofNat 0, bitPair_ofNat 1, bitPair_ofNat 2, bitPair_ofNat 3⟩

end Machine

end Sys2Proof
end

section
/-!
The accumulators (spec/41_accumulator.md): the update (R80), the four pixel instructions (R82 to R85), CLEAR (R81)
and EMIT (R88), each with what it leaves as it was.
-/

namespace Sys2Proof.Machine

/-- The two bytes R80 allows as a contribution are the two values of `contribution`. -/
theorem exists_eq_contribution {c : Byte} (h : c = 0x00 ∨ c = 0x80) : ∃ b, c = contribution b := by
  rcases h with rfl | rfl
  · exact ⟨false, rfl⟩
  · exact ⟨true, rfl⟩

/-- With the contribution 0x00 the update is the shift alone. -/
theorem acc_zero (a : Byte) : acc a 0x00 = a >>> 1 := BitVec.or_zero

/-- The update of the accumulators keeps the frame of a pixel instruction. -/
theorem accumulate_frame (s : State) (lo hi : Byte) : SameButAccumulators s (s.accumulate lo hi) :=
  ⟨rfl, rfl, rfl, rfl, ⟨rfl, fun _ => rfl⟩, fun _ => rfl, rfl, rfl, rfl⟩

/-- Every pixel instruction completes, updates each accumulator with its own contribution and keeps the rest. -/
theorem exec_completes (i : Instr) (s : State) {l h : Byte} (hl : acc s.lp (bitPair i.code).1 = l)
    (hh : acc s.hp (bitPair i.code).2 = h) :
    ∃ t, exec i s = .next t ∧ t.lp = l ∧ t.hp = h ∧ SameButAccumulators s t :=
  ⟨_, exec_eq i s, hl, hh, accumulate_frame s _ _⟩

theorem coreStep_of_clear {s : State} (h : s.phase = .clear) : coreStep s = .next (coreClear s) := by
  simp [coreStep, h]

theorem coreStep_of_emit {s : State} (h : s.phase = .emit) : coreStep s = .next (coreEmit s) := by
  simp [coreStep, h]

/-- No step of the CORE changes the input (R30, R17). -/
theorem coreStep_sameInput {s t : State} (h : coreStep s = .next t) : SameInput s t := by
  obtain ⟨hlen, hpix⟩ := coreStep_input h
  exact ⟨hlen, fun i => by rw [hpix]⟩

/-- Settles O10: the contribution decides bit 7, and every bit below takes the one above it. -/
theorem accumulatorUpdate : Obligations.AccumulatorUpdate := by
  intro a c hc
  obtain ⟨b, rfl⟩ := exists_eq_contribution hc
  refine ⟨rfl, ?_, fun i hi => ?_⟩
  · rw [getLsbD_acc_contribution a b (by omega), getLsbD_contribution]
    simp
  · rw [getLsbD_acc_contribution a b (by omega), if_neg (by omega)]

/-- Settles O12: the contributions of code 00 are both 0x00. -/
theorem px0ShiftsBoth : Obligations.Px0ShiftsBoth :=
  fun s => exec_completes .px0 s (acc_zero s.lp) (acc_zero s.hp)

/-- Settles O13: code 01 contributes 0x80 to the low plane only. -/
theorem px1SetsLowPlane : Obligations.Px1SetsLowPlane :=
  fun s => exec_completes .px1 s rfl (acc_zero s.hp)

/-- Settles O14: code 10 contributes 0x80 to the high plane only. -/
theorem px2SetsHighPlane : Obligations.Px2SetsHighPlane :=
  fun s => exec_completes .px2 s (acc_zero s.lp) rfl

/-- Settles O15: code 11 contributes 0x80 to both planes. -/
theorem px3SetsBothPlanes : Obligations.Px3SetsBothPlanes :=
  fun s => exec_completes .px3 s rfl rfl

/-- Settles O20: in the phase CLEAR the step is `coreClear`; the input and the host's fields no CORE step changes. -/
theorem clearStartsAGroup : Obligations.ClearStartsAGroup := by
  intro s hs
  have hstep := coreStep_of_clear hs
  exact ⟨coreClear s, hstep, coreClear_lp s, coreClear_hp s, coreClear_y s, coreClear_phase s,
    coreClear_x s, coreClear_err s, coreStep_sameInput hstep,
    fun j => by rw [coreClear_out], coreStep_host hstep⟩

/-- Settles O22: the step is EMIT; its bytes by `coreEmit_read`, its movement by `coreEmit_cases`. -/
theorem emitAppendsTwoBytes : Obligations.EmitAppendsTwoBytes := by
  intro s hs
  have hstep := coreStep_of_emit hs
  refine ⟨coreEmit s, hstep, ?low, ?high, fun j hlow hhigh => ?other, ?last, ?next, coreEmit_lp s,
    coreEmit_hp s, coreEmit_y s, coreEmit_err s, coreStep_sameInput hstep, coreStep_host hstep⟩
  case low => rw [coreEmit_read, if_neg (by omega), if_pos rfl]
  case high => rw [coreEmit_read, if_pos rfl]
  case other => rw [coreEmit_read, if_neg hhigh, if_neg hlow]
  case last => exact fun hx => ((coreEmit_cases s).resolve_right fun h => h.1 hx).2
  case next => exact fun hx => ((coreEmit_cases s).resolve_left fun h => hx h.1).2

end Sys2Proof.Machine
end

section
/-!
The tile sequencer (spec/42_tile_sequencer.md): the ACC step (R93), a failure or a packed pixel by the decoder's answer.
-/

namespace Sys2Proof.Machine

/-- ACC on a word the decoder rejects is `fail` with the decoder's cause. -/
theorem coreStep_of_acc_error {s : State} {w : Nat} {k : Cause} (hs : s.phase = .acc)
    (hw : s.pix.read (8 * s.x.toNat + s.y.toNat) = some w) (hd : decodePair w = .error k) :
    coreStep s = .next (s.fail k) := by
  simp [coreStep, hs, coreAcc_eq, hw, hd]

/-- ACC on a word the decoder accepts updates both accumulators and ends the pixel. -/
theorem coreStep_of_acc_ok {s : State} {w : Nat} {lo hi : Byte} (hs : s.phase = .acc)
    (hw : s.pix.read (8 * s.x.toNat + s.y.toNat) = some w) (hd : decodePair w = .ok (lo, hi)) :
    coreStep s = .next (s.accumulate lo hi).finishPixel := by
  simp [coreStep, hs, coreAcc_eq, hw, hd]

/-- Settles O21: by the decoder's answer on the fetched word; the movement after a packed pixel is
`finishPixel_cases`, whose test is on `Y` before the step because the update of the accumulators keeps `Y`. -/
theorem accPacksOnePixel : Obligations.AccPacksOnePixel := by
  intro s w hs hw
  cases hd : decodePair w with
  | error k =>
    have hstep := coreStep_of_acc_error hs hw hd
    refine ⟨s.fail k, hstep, fun k' hk => ?failed, fun _ _ hp => (nomatch hp), s.fail_x k,
      coreStep_sameInput hstep, fun j => by rw [s.fail_out k], coreStep_host hstep⟩
    cases hk
    exact ⟨s.fail_phase k, s.fail_err k, s.fail_lp k, s.fail_hp k, s.fail_y k⟩
  | ok p =>
    obtain ⟨lo, hi⟩ := p
    have hstep := coreStep_of_acc_ok hs hw hd
    have hmove := (s.accumulate lo hi).finishPixel_cases
    rw [State.accumulate_y, State.accumulate_phase, hs] at hmove
    refine ⟨(s.accumulate lo hi).finishPixel, hstep, fun _ hk => (nomatch hk), fun lo' hi' hp => ?packed,
      by simp, coreStep_sameInput hstep, fun j => by simp, coreStep_host hstep⟩
    cases hp
    exact ⟨by simp, by simp, by simp, fun hy => (hmove.resolve_right fun h => h.1 hy).2,
      fun hy => (hmove.resolve_left fun h => hy h.1).2⟩

end Sys2Proof.Machine
end

section
/-!
Words and instructions (spec/30_encoding.md R51 to R54, spec/40_pixel_decode.md R73 to R75): the encoder and the
decoder agree, the two decoders agree, and the fields and the width of a word decide what becomes of it.
-/

namespace Sys2Proof

/-- A legal word decodes to the instruction of its value. -/
theorem decode_of_legal {w : Nat} (h : w ≤ 3) : decode w = .ok (instrOfCode (BitVec.ofNat 2 w)) := by
  rw [decode_by_value, if_neg (by omega), if_neg (by omega)]

theorem decode_eq_cast_iff (w : Nat) : decode w = .error .cast ↔ 255 < w := by
  rw [decode_by_value]
  split
  · simp [*]
  · split <;> simp [*]

theorem decode_eq_range_iff (w : Nat) : decode w = .error .range ↔ 3 < w ∧ w ≤ 255 := by
  rw [decode_by_value]
  split
  · simp only [Except.error.injEq, reduceCtorEq, false_iff]; omega
  · split
    · simp only [true_iff]; omega
    · simp only [reduceCtorEq, false_iff]; omega

/-- The decoder never reports LENGTH (R74). -/
theorem decode_ne_length (w : Nat) : decode w ≠ .error .length := by
  rw [decode_by_value]
  split
  · simp
  · split <;> simp

/-- Decoding gives an instruction exactly on the instruction's own word (R53). -/
theorem decode_eq_ok_iff (w : Nat) (i : Instr) : decode w = .ok i ↔ w = encode i := by
  constructor
  · intro h
    have hw : w ≤ 3 := by
      rw [decode_by_value] at h
      split at h
      · cases h
      · split at h
        · cases h
        · omega
    rw [decode_of_legal hw] at h
    cases h
    rw [encode, code_instrOfCode, BitVec.toNat_ofNat, Nat.mod_eq_of_lt (by omega)]
  · rintro rfl
    rw [decode_of_legal (encode_le_three i), encode, BitVec.ofNat_toNat, BitVec.setWidth_eq,
      instrOfCode_code]

theorem wordLegal_iff (w : Nat) : wordLegal w = true ↔ w ≤ 3 := decide_eq_true_iff

/-- A slice up to a word's top bit is what stands above the slice's lowest bit (R6). -/
theorem slice_eq_div {hi lo w : Nat} (h : w < 2 ^ (hi + 1)) : slice hi lo w = w / 2 ^ lo := by
  rw [slice, Nat.shiftRight_eq_div_pow]
  refine Nat.mod_eq_of_lt (Nat.div_lt_of_lt_mul ?_)
  calc w < 2 ^ (hi + 1) := h
    _ ≤ 2 ^ (lo + (hi + 1 - lo)) := Nat.pow_le_pow_right (by decide) (by omega)
    _ = 2 ^ lo * 2 ^ (hi + 1 - lo) := Nat.pow_add 2 lo _

/-- `cz` is what the word holds above a byte (R51). -/
theorem czField_eq_zero_iff {pixw w : Nat} (hp : 2 ≤ pixw) (hw : w < 2 ^ pixw) :
    czField pixw w = 0 ↔ w ≤ 255 := by
  rw [czField, slice_eq_div (by rwa [show pixw - 1 + 1 = pixw by omega])]
  omega

/-- `rz` is what a word that fits a byte holds above its code (R51). -/
theorem rzField_eq_zero_iff {pixw w : Nat} (hp : 2 ≤ pixw) (hw : w < 2 ^ pixw) (hb : w ≤ 255) :
    rzField pixw w = 0 ↔ w ≤ 3 := by
  have hlt := lt_two_pow_min_eight hw hb
  rw [rzField, slice_eq_div (by rwa [show min pixw 8 - 1 + 1 = min pixw 8 by omega])]
  omega

/-- The code of a legal word is the word. -/
theorem codeField_of_legal {w : Nat} (h : w ≤ 3) : codeField w = w :=
  slice_zero_of_lt (by omega)

theorem classify_of_legal {w : Nat} (h : w ≤ 3) : classify w = .legal := if_pos h

theorem classify_of_out_of_range {w : Nat} (h : 3 < w) (hb : w ≤ 255) :
    classify w = .outOfRange := by
  rw [classify, if_neg (by omega), if_pos hb]

theorem classify_of_not_narrowable {w : Nat} (h : 255 < w) : classify w = .notNarrowable := by
  rw [classify, if_neg (by omega), if_neg (by omega)]

/-- A word that is out of range exists at the widths of 3 bits and more. -/
theorem exists_range_iff (pixw : Nat) :
    (∃ w, w < 2 ^ pixw ∧ decode w = .error .range) ↔ 3 ≤ pixw := by
  constructor
  · rintro ⟨w, hw, hd⟩
    have h4 : 2 ^ 2 < 2 ^ pixw := by have := (decode_eq_range_iff w).mp hd; omega
    exact (Nat.pow_lt_pow_iff_right (by decide)).mp h4
  · intro h
    exact ⟨4, Nat.pow_lt_pow_of_lt (a := 2) (n := 2) (by decide) h, (decode_eq_range_iff 4).mpr (by decide)⟩

/-- A word that does not narrow exists at the widths of 9 bits and more. -/
theorem exists_cast_iff (pixw : Nat) :
    (∃ w, w < 2 ^ pixw ∧ decode w = .error .cast) ↔ 9 ≤ pixw := by
  constructor
  · rintro ⟨w, hw, hd⟩
    have h8 : 2 ^ 8 < 2 ^ pixw := by have := (decode_eq_cast_iff w).mp hd; omega
    exact (Nat.pow_lt_pow_iff_right (by decide)).mp h8
  · intro h
    exact ⟨256, Nat.pow_lt_pow_of_lt (a := 2) (n := 8) (by decide) h, (decode_eq_cast_iff 256).mpr (by decide)⟩

namespace Machine

/-- A contribution is its bit moved to bit 7, for both bits of a code (R73). -/
theorem bitPair_eq_shift (c : BitVec 2) :
    bitPair c = ((c.extractLsb' 0 1).setWidth 8 <<< 7, (c.extractLsb' 1 1).setWidth 8 <<< 7) := by
  revert c; decide

/-- Settles O2: `decode_eq_ok_iff` in its three uses; every code fits the least width. -/
theorem decodeEncodeAgree : Obligations.DecodeEncodeAgree := by
  refine ⟨decode_eq_ok_iff, fun pixw i hi => ⟨?fits, (decode_eq_ok_iff _ i).mpr rfl⟩, fun w => ?legal⟩
  case fits =>
    simp only [Instr.wellFormed, Bool.and_eq_true] at hi
    exact hi.2
  case legal =>
    rw [wordLegal_iff]
    constructor
    · exact fun h => ⟨_, decode_of_legal h⟩
    · rintro ⟨i, h⟩
      rw [(decode_eq_ok_iff w i).mp h]
      exact encode_le_three i

/-- Settles O7: both decoders make the same two checks; the pair is the map of the instruction's code. -/
theorem instructionDecoderAgreesWithPairDecoder : Obligations.InstructionDecoderAgreesWithPairDecoder := by
  intro w
  rw [decodePair_eq_decode]
  refine ⟨fun k => ?_, fun i hi => ?_⟩
  · cases decode w <;> simp
  · rw [hi, ← bitPair_eq_shift]

/-- Settles O8: a non-zero `cz` is a value above 255, and below that a non-zero `rz` one above 3. -/
theorem fieldsDecideTheClass : Obligations.FieldsDecideTheClass := by
  intro pixw w hp hw
  have hcz := czField_eq_zero_iff hp hw
  refine ⟨fun hc => ?cast, fun hc hr => ?range, fun hc hr => ?legal⟩
  case cast =>
    have h : 255 < w := by rw [Ne, hcz] at hc; omega
    exact ⟨classify_of_not_narrowable h, (decode_eq_cast_iff w).mpr h⟩
  case range =>
    have hb : w ≤ 255 := hcz.mp hc
    have h : 3 < w := by rw [Ne, rzField_eq_zero_iff hp hw hb] at hr; omega
    exact ⟨classify_of_out_of_range h hb, (decode_eq_range_iff w).mpr ⟨h, hb⟩⟩
  case legal =>
    have h : w ≤ 3 := (rzField_eq_zero_iff hp hw (hcz.mp hc)).mp hr
    refine ⟨classify_of_legal h, _, decode_of_legal h, ?_⟩
    rw [codeField_of_legal h, code_instrOfCode, BitVec.toNat_ofNat, Nat.mod_eq_of_lt (by omega)]

/-- Settles O9: RANGE needs the word 4 to fit, CAST the word 256. -/
theorem widthDecidesPossibleFailures : Obligations.WidthDecidesPossibleFailures := by
  intro pixw hp
  refine ⟨fun w hw h8 => ?narrows, fun w hw h2 => ?legal, exists_range_iff pixw, exists_cast_iff pixw,
    decode_ne_length⟩
  case narrows =>
    have : 2 ^ pixw ≤ 2 ^ 8 := Nat.pow_le_pow_right (by decide) h8
    exact ⟨_, narrow8_of_le (by omega)⟩
  case legal =>
    subst h2
    exact ⟨_, _, narrow8_of_le (by omega), code_of_small (by omega)⟩

/-- Settles O1: four words by the value of a legal word, the boundary words by the ranges of the two causes. -/
theorem writtenOutWordsDecode : Obligations.WrittenOutWordsDecode :=
  ⟨decode_of_legal (w := 0) (by decide), decode_of_legal (w := 1) (by decide),
    decode_of_legal (w := 2) (by decide), decode_of_legal (w := 3) (by decide),
    (decode_eq_range_iff _).mpr (by decide), (decode_eq_range_iff _).mpr (by decide),
    (decode_eq_cast_iff _).mpr (by decide), (decode_eq_cast_iff _).mpr (by decide)⟩

end Machine

end Sys2Proof
end

section
/-!
The accumulators as numbers and over a whole group (spec/41_accumulator.md R86, R87).
-/

namespace Sys2Proof.Machine

/-- The shifted byte and a contribution have no bit in common, so the OR adds (R86 (b)). -/
theorem acc_contribution_toNat (a : Byte) (b : Bool) :
    (acc a (contribution b)).toNat = a.toNat / 2 + (contribution b).toNat := by
  have hshift : (a >>> 1).toNat = a.toNat / 2 := by
    rw [BitVec.toNat_ushiftRight, Nat.shiftRight_eq_div_pow, pow_one]
  cases b with
  | false => exact (congrArg BitVec.toNat (acc_zero a)).trans hshift
  | true =>
    have hlt : a.toNat / 2 < 2 ^ 7 := by have := a.isLt; omega
    have hor := Nat.two_pow_add_eq_or_of_lt hlt 1
    calc (acc a 0x80).toNat = a.toNat / 2 ||| 128 := by rw [acc, BitVec.toNat_or, hshift]; rfl
      _ = a.toNat / 2 + 128 := by rw [Nat.lor_comm, Nat.add_comm]; exact hor.symm

/-- The accumulator after a list of plane bits has been packed from 0, the first bit first (R81, R80). -/
def packBits (bits : List Bool) : Byte := bits.foldl (fun a b => acc a (contribution b)) 0x00

theorem packBits_append_singleton (bits : List Bool) (c : Bool) :
    packBits (bits ++ [c]) = acc (packBits bits) (contribution c) := by
  simp [packBits]

/-- The last of `k` packed bits stands at bit 7, each earlier one a bit lower, and below bit `8 - k` there are
zeros (R87). -/
theorem getLsbD_packBits (bits : List Bool) :
    ∀ b < 8, (packBits bits).getLsbD b =
      (decide (8 ≤ b + bits.length) && bits.getD (b + bits.length - 8) false) := by
  induction bits using List.reverseRecOn with
  | nil => intro b hb; simp [packBits]
  | append_singleton bits c ih =>
    intro b hb
    rw [packBits_append_singleton, getLsbD_acc_contribution _ _ hb, List.length_append,
      List.length_singleton]
    by_cases h7 : b = 7
    · rw [if_pos h7, List.getD_eq_getElem?_getD,
        show b + (bits.length + 1) - 8 = bits.length by omega, List.getElem?_concat_length]
      simp [h7, show 8 ≤ 7 + (bits.length + 1) by omega]
    · rw [if_neg h7, ih (b + 1) (by omega), show b + (bits.length + 1) = b + 1 + bits.length by omega]
      by_cases h8 : 8 ≤ b + 1 + bits.length
      · rw [List.getD_append _ _ _ _ (by omega)]
      · simp [h8]

/-- The state after a list of instructions, each of which updates both accumulators (`exec_eq`). -/
def State.packAll (s : State) (is : List Instr) : State :=
  is.foldl (fun u i => u.accumulate (bitPair i.code).1 (bitPair i.code).2) s

/-- After CLEAR, running instructions in turn packs the two bits of each code into its accumulator. -/
theorem packAll_coreClear (is : List Instr) (s : State) :
    ((coreClear s).packAll is).lp = packBits (is.map fun i => i.code.getLsbD 0) ∧
      ((coreClear s).packAll is).hp = packBits (is.map fun i => i.code.getLsbD 1) := by
  rw [packBits, packBits, List.foldl_map, List.foldl_map]
  exact ⟨(List.foldl_hom State.lp fun _ _ => rfl).symm, (List.foldl_hom State.hp fun _ _ => rfl).symm⟩

/-- The `m`-th of `k` packed bits, `m` from 0 and `k` at most 8, stands at bit `7 - (k - 1 - m)` (R87). -/
theorem getLsbD_packBits_map (f : Instr → Bool) {is : List Instr} (hlen : is.length ≤ 8) {m : Nat}
    (h : m < is.length) : (packBits (is.map f)).getLsbD (7 - (is.length - 1 - m)) = f is[m] := by
  rw [getLsbD_packBits _ _ (by omega), List.length_map,
    show 7 - (is.length - 1 - m) + is.length - 8 = m by omega]
  simp [h]
  omega

theorem getLsbD_packBits_map_low (f : Instr → Bool) {is : List Instr} {b : Nat}
    (hb : b < 8 - is.length) : (packBits (is.map f)).getLsbD b = false := by
  rw [getLsbD_packBits _ _ (by omega), List.length_map]
  simp
  omega

/-- Settles O11: bit 7 is free after the shift; the indices by the laws of the operands. -/
theorem arithmeticNeverWraps : Obligations.ArithmeticNeverWraps := by
  refine ⟨fun a c hc => ?_, fun x y => ⟨pixIndex_toNat x y, lowIndex_toNat x, highIndex_toNat x⟩⟩
  obtain ⟨b, rfl⟩ := exists_eq_contribution hc
  exact acc_contribution_toNat a b

/-- Settles O16: no instruction stops, so the run is a fold, and its accumulators are the packed plane bits. -/
theorem groupClosedForm : Obligations.GroupClosedForm := by
  intro s is _ hlen
  obtain ⟨hlp, hhp⟩ := packAll_coreClear is s
  refine ⟨(coreClear s).packAll is, ?run, fun m h => ?packed, fun b hb => ?below⟩
  case run =>
    simp only [exec_eq]
    exact List.foldlM_pure
  case packed =>
    rw [hlp, hhp]
    exact ⟨getLsbD_packBits_map (·.code.getLsbD 0) hlen h, getLsbD_packBits_map (·.code.getLsbD 1) hlen h⟩
  case below =>
    rw [hlp, hhp]
    exact ⟨getLsbD_packBits_map_low _ hb, getLsbD_packBits_map_low _ hb⟩

end Sys2Proof.Machine
end

section
/-!
A step of the CORE (spec/42_tile_sequencer.md R92 to R95): which step it is when the CORE moves, what CHECK and
`fail` do, what an ACC step adds around the instruction, and where each step leaves the position.
-/

namespace Sys2Proof.Machine

/-- When the CORE moves, the step is its own. -/
theorem CoreMoves.step_eq {s s' : State} (h : CoreMoves s s') : step s = coreStep s' := by
  rcases h with ⟨hnone, rfl⟩ | ⟨rest, hcore, rfl⟩
  · exact step_of_no_turn hnone
  · exact step_of_core_turn hcore

/-- When the CORE moves, at most the list of turns has changed before it. -/
theorem CoreMoves.exists_turns {s s' : State} (h : CoreMoves s s') : ∃ ts, s' = { s with turns := ts } := by
  rcases h with ⟨_, rfl⟩ | ⟨rest, _, rfl⟩
  · exact ⟨_, rfl⟩
  · exact ⟨rest, rfl⟩

theorem coreStep_of_check {s : State} (h : s.phase = .check) : coreStep s = .next (coreCheck s) := by
  simp [coreStep, h]

/-- Of the CORE's steps only EMIT writes to `OUT` (R31). -/
theorem coreStep_out {s t : State} (h : coreStep s = .next t) :
    t.out = s.out ∨ s.phase = .emit ∧ t = coreEmit s := by
  rcases coreStep_cases h with
    ⟨_, rfl⟩ | ⟨_, rfl⟩ | ⟨_, rfl⟩ | ⟨_, w, _, ⟨k, _, rfl⟩ | ⟨lo, hi, _, rfl⟩⟩ | hemit
  · exact .inl rfl
  · exact .inl (coreCheck_out s)
  · exact .inl (coreClear_out s)
  · exact .inl (s.fail_out k)
  · exact .inl (State.finishPixel_out _)
  · exact .inr hemit

/-- An ACC step that is taken fails, which ends the run, or packs the pixel and moves the position. -/
theorem coreStep_acc_cases {s t : State} (hs : s.phase = .acc) (h : coreStep s = .next t) :
    ∃ w, s.pix.read (8 * s.x.toNat + s.y.toNat) = some w ∧
      ((∃ k, decodePair w = .error k ∧ t = s.fail k) ∨
        ∃ lo hi, decodePair w = .ok (lo, hi) ∧ t = (s.accumulate lo hi).finishPixel) := by
  rcases coreStep_cases h with ⟨hr, _⟩ | ⟨hp, _⟩ | ⟨hp, _⟩ | ⟨_, hacc⟩ | ⟨hp, _⟩
  · simp [State.ready, Phase.ready, hs] at hr
  · cases hs.symm.trans hp
  · cases hs.symm.trans hp
  · exact hacc
  · cases hs.symm.trans hp

/-- Where a packed pixel leaves the position: the group ends at `Y = 0`, else `Y` is one less (R93). -/
theorem packed_position {s : State} (hs : s.phase = .acc) (lo hi : Byte) :
    (s.y = 0 ∧ (s.accumulate lo hi).finishPixel.phase = .emit) ∨
      (s.y ≠ 0 ∧ (s.accumulate lo hi).finishPixel.phase = .acc ∧
        (s.accumulate lo hi).finishPixel.y.toNat + 1 = s.y.toNat) := by
  rcases (s.accumulate lo hi).finishPixel_cases with ⟨hy, hp, _⟩ | ⟨hy, hp, hy'⟩
  · exact .inl ⟨hy, hp⟩
  · exact .inr ⟨hy, hp.trans hs, hy'⟩

/-- Settles O18: the CORE's step relation is defined by the phase, which using up a turn keeps. -/
theorem coreTurnIsThePhaseStep : Obligations.CoreTurnIsThePhaseStep := by
  intro s s' h
  rw [h.step_eq]
  obtain ⟨ts, rfl⟩ := h.exists_turns
  rfl

/-- Settles O17: the step is the ACC step of `accPacksOnePixel`, whose contributions are the instruction's. -/
theorem stepRunsDecodedPixel : Obligations.StepRunsDecodedPixel := by
  intro s s' w i h hs hw hi
  obtain ⟨ts, rfl⟩ := h.exists_turns
  obtain ⟨u, hu, -, hok, hx, hinput, hout, hhost⟩ := accPacksOnePixel { s with turns := ts } w hs hw
  obtain ⟨hlp, hhp, herr, hlast, hnext⟩ := hok _ _ (by rw [decodePair_eq_decode, hi])
  exact ⟨_, u, exec_eq i _, h.step_eq.trans hu, hlp, hhp, hlast, hnext, hx, herr, hinput, hout, hhost⟩

/-- Settles O19: the two cases of CHECK exclude each other by the length. -/
theorem checkTestsTheLength : Obligations.CheckTestsTheLength := by
  intro s hs
  have hstep := coreStep_of_check hs
  refine ⟨coreCheck s, hstep, fun h64 => ?goes_on, fun hne => ?fails, coreCheck_y s, coreCheck_lp s,
    coreCheck_hp s, coreStep_sameInput hstep, fun j => by rw [coreCheck_out], coreStep_host hstep⟩
  case goes_on => exact ((coreCheck_cases s).resolve_right fun h => h.1 h64).2
  case fails =>
    obtain ⟨-, hp, hx, herr⟩ := (coreCheck_cases s).resolve_left fun h => hne h.1
    exact ⟨hp, herr, hx⟩

/-- Settles O23: field by field, by the laws of `fail`. -/
theorem failWritesCauseAndPhaseOnly : Obligations.FailWritesCauseAndPhaseOnly :=
  fun s k => ⟨s.fail_err k, s.fail_phase k, s.fail_x k, s.fail_y k, s.fail_lp k, s.fail_hp k,
    ⟨s.fail_len k, fun i => by rw [s.fail_pix k]⟩, fun j => by rw [s.fail_out k],
    s.fail_turns k, s.fail_answers k, s.fail_fresh k⟩

/-- Settles O51: the placed word stands where the ACC step of the CORE's turn fetches it, so the step is the one
of `stepRunsDecodedPixel`. -/
theorem fetchWordRunsNext : Obligations.FetchWordRunsNext := by
  intro s nbits w i hi
  have hdecode : decode (w % 2 ^ nbits) = .ok i := by
    unfold decodeTableWord at hi
    split at hi
    · cases hi; assumption
    · cases hi
  have hread : (s.withFetchWord nbits w).pix.read
      (8 * (s.withFetchWord nbits w).x.toNat + (s.withFetchWord nbits w).y.toNat) =
        some (w % 2 ^ nbits) := by
    simp [State.withFetchWord]
  obtain ⟨t, u, ht, hu, hlp, hhp, -, -, -, -, -, -, hturns, -⟩ :=
    stepRunsDecodedPixel (s.withFetchWord nbits w) _ _ i (.inr ⟨s.turns, rfl, rfl⟩)
      s.beforePixel_phase hread hdecode
  rw [exec_eq] at ht
  cases ht
  exact ⟨_, u, exec_eq i _, hu, hlp, hhp, hturns⟩

/-- The index of `(X, Y)` stands at place `8*X + (7 - Y)` of the fetch order (R14). -/
theorem pixIndex_eq_fetchIndex (x y : BitVec 3) :
    (pixIndex x y).toNat = fetchIndex (8 * x.toNat + (7 - y.toNat)) := by
  have := x.isLt
  have := y.isLt
  rw [pixIndex_toNat, fetchIndex]
  omega

/-- Settles O37: the place of the position after each step, by what the step does to `X` and `Y`. -/
theorem fetchOrderIsFixed : Obligations.FetchOrderIsFixed := by
  refine ⟨pixIndex_eq_fetchIndex, fun s t hs h ht => ?stays, fun s t hs h ht => ?ends,
    fun s t hs h ht => ?emitted, fun s t hs h => ?cleared, fun s t hs h ht => ?checked, by decide⟩
  case stays =>
    obtain ⟨w, -, ⟨k, -, rfl⟩ | ⟨lo, hi, -, rfl⟩⟩ := coreStep_acc_cases hs h
    · cases ht
    · rcases packed_position hs lo hi with ⟨-, hp⟩ | ⟨-, -, hy⟩
      · cases hp.symm.trans ht
      · rw [State.finishPixel_x, State.accumulate_x]
        have := s.y.isLt
        omega
  case ends =>
    obtain ⟨w, -, ⟨k, -, rfl⟩ | ⟨lo, hi, -, rfl⟩⟩ := coreStep_acc_cases hs h
    · cases ht
    · rcases packed_position hs lo hi with ⟨hy, -⟩ | ⟨-, hp, -⟩
      · rw [State.finishPixel_x, State.accumulate_x, hy]
        rfl
      · cases hp.symm.trans ht
  case emitted =>
    rw [coreStep_of_emit hs] at h
    cases h
    rcases coreEmit_cases s with ⟨-, hp, -⟩ | ⟨-, -, hx⟩
    · cases hp.symm.trans ht
    · omega
  case cleared =>
    rw [coreStep_of_clear hs] at h
    cases h
    rw [coreClear_x, coreClear_y]
    rfl
  case checked =>
    rw [coreStep_of_check hs] at h
    cases h
    rcases coreCheck_cases s with ⟨-, -, hx, -⟩ | ⟨-, hp, -⟩
    · rw [hx]; rfl
    · cases hp.symm.trans ht

end Sys2Proof.Machine
end

section
/-!
The host's turns (spec/42_tile_sequencer.md R91, R96 to R98; spec/70_reset_and_hazards.md R130, R134, R140): what
each action does when it is taken, and the table of `STATUS` (spec/10_state.md R18).
-/

namespace Sys2Proof.Machine

/-- Using up a turn leaves the block as it is. -/
theorem sameBlock_withTurns (s : State) (ts : List Turn) : SameBlock s { s with turns := ts } :=
  ⟨rfl, rfl, rfl, rfl, rfl, rfl, ⟨rfl, fun _ => rfl⟩, fun _ => rfl⟩

/-- Using up a turn and handing over an answer leave the block as it is. -/
theorem sameBlock_answer (s : State) (ts : List Turn) (a : Answer) :
    SameBlock s (State.answer { s with turns := ts } a) :=
  sameBlock_withTurns s ts

theorem step_of_reset {s : State} {rest : List Turn} (h : s.turns = .host .reset :: rest) :
    step s = .next (hostReset { s with turns := rest }) :=
  step_of_enabled h rfl

theorem step_of_start {s : State} {grid : List Nat} {rest : List Turn} (hr : s.ready = true)
    (h : s.turns = .host (.start grid) :: rest) :
    step s = .next (hostStart grid { s with turns := rest }) :=
  step_of_enabled h hr

theorem step_of_observe {s : State} {rest : List Turn} (h : s.turns = .host .observe :: rest) :
    step s = .next (State.answer { s with turns := rest } (.status s.status s.ready)) :=
  step_of_enabled h rfl

/-- READ_RESULT is enabled where a run has ended. -/
theorem readResult_enabled_iff (p : Phase) :
    HostAction.readResult.enabled p = true ↔ p = .done ∨ p = .fail := by
  simp [HostAction.enabled]

theorem hostReadResult_of_some {s : State} {r : Result} (h : s.result = some r) :
    hostReadResult s = .next (s.answer (.result r)) := by
  simp [hostReadResult, h]

theorem hostReadResult_of_none {s : State} (h : s.result = none) :
    hostReadResult s = .refused .undefinedOutput := by
  simp [hostReadResult, h]

/-- READ_RESULT is taken after a run. -/
theorem step_of_readResult {s : State} {rest : List Turn} (h : s.turns = .host .readResult :: rest)
    (hp : s.phase = .done ∨ s.phase = .fail) : step s = hostReadResult { s with turns := rest } :=
  step_of_enabled h ((readResult_enabled_iff _).mpr hp)

theorem result_of_done {s : State} (h : s.phase = .done) : s.result = s.tile.map Result.ok := by
  simp [State.result, h]

theorem result_of_fail {s : State} (h : s.phase = .fail) : s.result = some (.err s.err) := by
  simp [State.result, h]

/-- The tile there is to read is the list whose sixteen bytes `OUT` holds. -/
theorem tile_eq_some_iff (s : State) (tile : List Byte) :
    s.tile = some tile ↔ tile.length = 16 ∧ ∀ j < 16, s.out.read j = tile[j]? :=
  Memory.readList_zero_eq_some s.out 16 tile

/-- With a byte of `OUT` undefined there is no tile. -/
theorem tile_eq_none {s : State} {j : Nat} (hj : j < 16) (h : s.out.read j = none) : s.tile = none := by
  cases ht : s.tile with
  | none => rfl
  | some tile =>
    obtain ⟨hlen, hall⟩ := (tile_eq_some_iff s tile).mp ht
    have := List.getElem?_eq_none_iff.mp ((hall j hj).symm.trans h)
    omega

/-- Settles O25: RESET is always enabled; the fields by the laws of `hostReset`. -/
theorem resetLeavesIdleAndNothingDefined : Obligations.ResetLeavesIdleAndNothingDefined :=
  fun _ _ h => ⟨_, step_of_reset h, rfl, rfl, rfl, rfl, fun _ => rfl, fun _ => rfl, rfl, rfl⟩

/-- Settles O26: RESET of the state that differs from `State.reset` in its counter, 0, and its one turn. -/
theorem initialStateIsAResetState : Obligations.InitialStateIsAResetState :=
  ⟨rfl, rfl, rfl, fun _ => rfl, fun _ => rfl,
    { State.reset with fresh := 0, turns := [.host .reset] }, rfl, step_of_reset rfl⟩

/-- Settles O27: `PIX` is filled from the first 64 words of the grid. -/
theorem startTakesTheGridByValue : Obligations.StartTakesTheGridByValue := by
  intro s grid rest hr h
  refine ⟨_, step_of_start hr h, rfl, rfl, fun i hi => ?below, fun i hi => ?above, fun _ => rfl, rfl, rfl⟩
  case below =>
    rw [hostStart_pix, Memory.read_ofList_zero]
    exact List.getElem?_take_of_lt hi
  case above =>
    rw [hostStart_pix, Memory.read_ofList_zero]
    exact List.getElem?_take_eq_none hi

/-- Settles O28: either guard is false, so the turn stands. -/
theorem disabledRequestChangesNothing : Obligations.DisabledRequestChangesNothing := by
  rintro s a rest h (⟨⟨grid, rfl⟩, hbusy⟩ | ⟨rfl, hdone, hfail⟩)
  · exact step_of_disabled h hbusy
  · refine step_of_disabled h (Bool.eq_false_iff.mpr fun he => ?_)
    exact ((readResult_enabled_iff _).mp he).elim hdone hfail

/-- Settles O29: the observation is always enabled and only appends an answer. -/
theorem observationChangesNothing : Obligations.ObservationChangesNothing :=
  fun s rest h => ⟨_, step_of_observe h, sameBlock_answer s rest _, rfl, rfl⟩

/-- Settles O30: each row by its phase, and in FAIL by the cause. -/
theorem statusTable : Obligations.StatusTable := by
  intro s
  cases hp : s.phase with
  | fail =>
    cases he : s.err <;> simp [State.status, State.ready, Phase.ready, Cause.status, Status.code, hp, he]
  | _ => simp [State.status, State.ready, Phase.ready, Status.code, hp]

/-- Settles O31: by the result there is to read in each of the two phases. -/
theorem readResultReturnsTileOrCause : Obligations.ReadResultReturnsTileOrCause := by
  intro s rest h
  refine ⟨fun tile hp hlen hall => ?tile, fun hp => ?cause, ?undefined⟩
  case tile =>
    have hr : s.result = some (.ok tile) := by
      rw [result_of_done hp, (tile_eq_some_iff s tile).mpr ⟨hlen, hall⟩]
      rfl
    exact ⟨_, (step_of_readResult h (.inl hp)).trans (hostReadResult_of_some hr),
      sameBlock_answer s rest _, rfl, rfl⟩
  case cause =>
    exact ⟨_, (step_of_readResult h (.inr hp)).trans (hostReadResult_of_some (result_of_fail hp)),
      sameBlock_answer s rest _, rfl, rfl⟩
  case undefined =>
    rintro hp ⟨j, hj, hnone⟩
    have hr : s.result = none := by
      rw [result_of_done hp, tile_eq_none hj hnone]
      rfl
    exact (step_of_readResult h (.inl hp)).trans (hostReadResult_of_none hr)

end Sys2Proof.Machine
end

section
/-!
Rules of the whole machine (spec/10_state.md R15 to R17, spec/20_memory.md R38, spec/42_tile_sequencer.md R96 and R102,
spec/60_exceptions.md R127), each from one account of what a step can do.
-/

namespace Sys2Proof.Machine

/-- The ready phases of R15. -/
theorem State.ready_iff (s : State) :
    s.ready = true ↔ s.phase = .idle ∨ s.phase = .done ∨ s.phase = .fail := by
  unfold State.ready
  cases s.phase <;> simp [Phase.ready]

/-- What a step from `s` to `t` was: a step of the CORE, with or without a turn used up, or an action of the host. -/
inductive StepWas (s : State) : State → Prop where
  /-- The CORE moved. -/
  | core {t : State} (ts : List Turn) (hstep : coreStep { s with turns := ts } = .next t) : StepWas s t
  /-- The host's RESET. -/
  | reset (rest : List Turn) (hs : s.turns = .host .reset :: rest) :
      StepWas s (hostReset { s with turns := rest })
  /-- A START taken by a ready block. -/
  | start (grid : List Nat) (rest : List Turn) (hs : s.turns = .host (.start grid) :: rest)
      (hready : s.ready = true) : StepWas s (hostStart grid { s with turns := rest })
  /-- The observation. -/
  | observe (rest : List Turn) (hs : s.turns = .host .observe :: rest) :
      StepWas s (hostObserve { s with turns := rest })
  /-- READ_RESULT after a run. -/
  | readResult (rest : List Turn) (r : Result) (hphase : s.phase = .done ∨ s.phase = .fail) :
      StepWas s (State.answer { s with turns := rest } (.result r))

theorem stepWas_of_step {s t : State} (h : step s = .next t) : StepWas s t := by
  rcases step_cases h with hcore | ⟨rest, -, hcore⟩ | ⟨a, rest, hs, hen, hhost⟩
  · exact .core s.turns hcore
  · exact .core rest hcore
  · rcases hostStep_cases hhost with ⟨rfl, rfl⟩ | ⟨grid, rfl, rfl⟩ | ⟨rfl, rfl⟩ | ⟨rfl, r, -, rfl⟩
    · exact .reset rest hs
    · exact .start grid rest hs hen
    · exact .observe rest hs
    · exact .readResult rest r ((readResult_enabled_iff _).mp hen)

/-- A step of the CORE moves `PHASE` along R15's table. -/
theorem coreStep_successor {s t : State} (h : coreStep s = .next t) : t.phase ∈ s.phase.successors := by
  rcases coreStep_cases h with
    ⟨hr, rfl⟩ | ⟨hp, rfl⟩ | ⟨hp, rfl⟩ | ⟨hp, w, -, ⟨k, -, rfl⟩ | ⟨lo, hi, -, rfl⟩⟩ | ⟨hp, rfl⟩
  · rcases t.ready_iff.mp hr with hp | hp | hp <;> simp [hp, Phase.successors]
  · rcases coreCheck_cases s with ⟨-, ht, -⟩ | ⟨-, ht, -⟩ <;> simp [hp, ht, Phase.successors]
  · simp [hp, Phase.successors]
  · simp [hp, Phase.successors]
  · rcases packed_position hp lo hi with ⟨-, ht⟩ | ⟨-, ht, -⟩ <;> simp [hp, ht, Phase.successors]
  · rcases coreEmit_cases s with ⟨-, ht, -⟩ | ⟨-, ht, -⟩ <;> simp [hp, ht, Phase.successors]

/-- The decoder fails on the bad words, with the cause R115 reports for them. -/
theorem bad_of_decodePair_error {w : Nat} {k : Cause} (h : decodePair w = .error k) :
    3 < w ∧ k = causeOf w := by
  rcases Nat.lt_or_ge 3 w with hbad | hlegal
  · rw [decodePair_of_bad hbad] at h
    cases h
    exact ⟨hbad, rfl⟩
  · rw [decodePair_of_legal hlegal] at h
    cases h

/-- The decoder succeeds on the legal words, with the two plane bits as contributions. -/
theorem legal_of_decodePair_ok {w : Nat} {lo hi : Byte} (h : decodePair w = .ok (lo, hi)) :
    w ≤ 3 ∧ lo = contribution (w.testBit 0) ∧ hi = contribution (w.testBit 1) := by
  rcases Nat.lt_or_ge 3 w with hbad | hlegal
  · rw [decodePair_of_bad hbad] at h
    cases h
  · rw [decodePair_of_legal hlegal] at h
    cases h
    exact ⟨hlegal, rfl, rfl⟩

/-- A bad word is reported as CAST or RANGE, never as LENGTH. -/
theorem causeOf_eq (w : Nat) : causeOf w = .cast ∨ causeOf w = .range := by
  unfold causeOf
  split
  · exact .inl rfl
  · exact .inr rfl

/-- A step of the CORE that changes `ERR` is a failure of CHECK or of ACC (R114). -/
theorem coreStep_err {s t : State} (h : coreStep s = .next t) :
    t.err = s.err ∨ t.phase = .fail ∧ (s.phase = .check ∧ t.err = .length ∨
      s.phase = .acc ∧ (t.err = .cast ∨ t.err = .range)) := by
  rcases coreStep_cases h with
    ⟨-, rfl⟩ | ⟨hp, rfl⟩ | ⟨-, rfl⟩ | ⟨hp, w, -, ⟨k, hk, rfl⟩ | ⟨lo, hi, -, rfl⟩⟩ | ⟨-, rfl⟩
  · exact .inl rfl
  · rcases coreCheck_cases s with ⟨-, -, -, herr⟩ | ⟨-, hfail, -, herr⟩
    · exact .inl herr
    · exact .inr ⟨hfail, .inl ⟨hp, herr⟩⟩
  · exact .inl (coreClear_err s)
  · obtain ⟨-, rfl⟩ := bad_of_decodePair_error hk
    exact .inr ⟨s.fail_phase _, .inr ⟨hp, causeOf_eq w⟩⟩
  · exact .inl (State.finishPixel_err _)
  · exact .inl (coreEmit_err s)

/-- Settles O32: a ready block's own step changes nothing, and the actions that hand something over change nothing
of the block. -/
theorem resultIsStableUntilStartOrReset : Obligations.ResultIsStableUntilStartOrReset := by
  intro s t hr h
  cases stepWas_of_step h with
  | core ts hstep =>
    rw [coreStep_of_ready (s := { s with turns := ts }) hr] at hstep
    cases hstep
    exact .inl ⟨rfl, rfl, rfl⟩
  | reset rest hs => exact .inr ⟨_, rest, hs, rfl, rfl, .inl rfl⟩
  | start grid rest hs _ => exact .inr ⟨_, rest, hs, rfl, rfl, .inr ⟨grid, rfl⟩⟩
  | observe rest _ => exact .inl ⟨rfl, rfl, rfl⟩
  | readResult rest r _ => exact .inl ⟨rfl, rfl, rfl⟩

/-- Settles O33: the CORE by `coreStep_successor`, RESET and START by their rows, READ_RESULT stands still in DONE
and FAIL. -/
theorem phaseFollowsTheTable : Obligations.PhaseFollowsTheTable := by
  intro s t h
  cases stepWas_of_step h with
  | core ts hstep => exact .inl (coreStep_successor (s := { s with turns := ts }) hstep)
  | reset rest _ =>
    left
    rw [hostReset_phase]
    cases s.phase <;> decide
  | start grid rest _ hready =>
    left
    rw [hostStart_phase]
    rcases s.ready_iff.mp hready with hp | hp | hp <;> simp [hp, Phase.successors]
  | observe rest hs =>
    exact .inr ⟨rest, hs, rfl, sameBlock_answer s rest _⟩
  | readResult rest r hphase =>
    left
    rw [State.answer_phase]
    rcases hphase with hp | hp <;> simp [hp, Phase.successors]

/-- Settles O34: the CORE by `coreStep_err`; of the host's actions RESET and START alone touch `ERR`. -/
theorem errWrittenOnlyByFailure : Obligations.ErrWrittenOnlyByFailure := by
  intro s t h hne
  cases stepWas_of_step h with
  | core ts hstep => exact .inl ((coreStep_err hstep).resolve_left hne)
  | reset rest hs => exact .inr ⟨_, rest, hs, rfl, .inl rfl⟩
  | start grid rest hs _ => exact .inr ⟨_, rest, hs, rfl, .inr ⟨grid, rfl⟩⟩
  | observe rest _ => exact absurd rfl hne
  | readResult rest r _ => exact absurd rfl hne

/-- Settles O35: no step of the CORE changes the input; of the host's actions RESET and START alone do. -/
theorem inputChangesOnlyByHost : Obligations.InputChangesOnlyByHost := by
  intro s t h
  cases stepWas_of_step h with
  | core ts hstep => exact .inl (coreStep_sameInput (s := { s with turns := ts }) hstep)
  | reset rest hs => exact .inr ⟨_, rest, hs, rfl, .inl ⟨rfl, rfl⟩⟩
  | start grid rest hs hready =>
    exact .inr ⟨_, rest, hs, rfl, .inr ⟨grid, rfl, hready, rfl⟩⟩
  | observe rest _ => exact .inl ⟨rfl, fun _ => rfl⟩
  | readResult rest r _ => exact .inl ⟨rfl, fun _ => rfl⟩

/-- Settles O36: of the CORE's steps EMIT alone writes to `OUT`, at the two indices of `coreEmit_read`. -/
theorem outChangesOnlyByEmit : Obligations.OutChangesOnlyByEmit := by
  intro s t h j
  cases stepWas_of_step h with
  | core ts hstep =>
    rcases coreStep_out hstep with hout | ⟨hp, rfl⟩
    · exact .inl (by rw [hout])
    · rw [coreEmit_read]
      split
      · exact .inr (.inl ⟨hp, .inr ⟨‹_›, rfl⟩⟩)
      · split
        · exact .inr (.inl ⟨hp, .inl ⟨‹_›, rfl⟩⟩)
        · exact .inl rfl
  | reset rest hs => exact .inr (.inr ⟨rfl, _, rest, hs, rfl, .inl rfl⟩)
  | start grid rest hs _ =>
    exact .inr (.inr ⟨rfl, _, rest, hs, rfl, .inr ⟨grid, rfl⟩⟩)
  | observe rest _ => exact .inl rfl
  | readResult rest r _ => exact .inl rfl

/-- Settles O49: the CORE's step reads neither the turns nor the answers. -/
theorem observationDoesNotDisturbARun : Obligations.ObservationDoesNotDisturbARun := by
  intro s t hs h
  rw [step_of_no_turn hs] at h
  have hturns : t.turns = [] := (coreStep_host h).1.trans hs
  have hafter : coreStep { s with turns := [], answers := s.answers ++ [.status s.status s.ready] } =
      .next { t with turns := [], answers := s.answers ++ [.status s.status s.ready] } := by
    rw [coreStep_withHost, h]
  refine ⟨_, _, step_of_observe (s := { s with turns := [.host .observe] }) rfl,
    (step_of_no_turn rfl).trans hafter, ?_⟩
  rw [← hturns]

/-- When one of several blocks moves, its entry of the list is replaced, and it alone. -/
theorem stepInstance_cases {k : Nat} {ms ms' : List State} (h : stepInstance k ms = .next ms') :
    (ms[k]? = none ∧ ms' = ms) ∨ ∃ m m', ms[k]? = some m ∧ step m = .next m' ∧ ms' = ms.set k m' := by
  unfold stepInstance at h
  cases hm : ms[k]? with
  | none =>
    simp only [hm] at h
    cases h
    exact .inl ⟨rfl, rfl⟩
  | some m =>
    simp only [hm] at h
    cases hstep : step m with
    | next m' =>
      simp only [hstep] at h
      cases h
      exact .inr ⟨m, m', rfl, hstep, rfl⟩
    | fault r => nomatch r
    | refused r =>
      simp only [hstep] at h
      cases h

/-- Settles O50: setting one entry of a list keeps its length and every other entry. -/
theorem instancesAreIndependent : Obligations.InstancesAreIndependent := by
  intro ms ms' k h
  rcases stepInstance_cases h with ⟨hnone, rfl⟩ | ⟨m, m', hm, hstep, rfl⟩
  · exact ⟨rfl, fun _ _ => rfl, fun m hm => by rw [hnone] at hm; cases hm⟩
  · refine ⟨List.length_set, fun j hj => List.getElem?_set_ne hj.symm, fun n hn => ?_⟩
    cases hm.symm.trans hn
    have hk : k < ms.length := (List.getElem?_eq_some_iff.mp hm).1
    exact ⟨m', hstep, List.getElem?_set_self hk⟩

end Sys2Proof.Machine
end

section
/-!
The invariant of the machine (spec/10_state.md R22, spec/20_memory.md R39, spec/41_accumulator.md R89,
spec/60_exceptions.md R115): RESET and START establish it, every step keeps it, and under it every step is taken.
-/

namespace Sys2Proof.Machine

/-! What the invariant says in each phase. -/

theorem phaseInv_check_iff {s : State} (h : s.phase = .check) :
    PhaseInv s ↔ (∀ j, s.out.read j = none) ∧ (s.len = 64 → ∃ g, Holds s g) := by
  simp only [PhaseInv, h]

theorem phaseInv_clear_iff {s : State} (h : s.phase = .clear) :
    PhaseInv s ↔ s.len = 64 ∧
      ∃ g, Holds s g ∧ LegalUpTo g (8 * s.x.toNat) ∧ Emitted s g s.x.toNat := by
  simp only [PhaseInv, h]

theorem phaseInv_acc_iff {s : State} (h : s.phase = .acc) :
    PhaseInv s ↔ s.len = 64 ∧ ∃ g, Holds s g ∧ LegalUpTo g (8 * s.x.toNat + (7 - s.y.toNat)) ∧
      Emitted s g s.x.toNat ∧ PlaneAfter g s.x.toNat (7 - s.y.toNat) 0 s.lp ∧
      PlaneAfter g s.x.toNat (7 - s.y.toNat) 1 s.hp := by
  simp only [PhaseInv, h]

theorem phaseInv_emit_iff {s : State} (h : s.phase = .emit) :
    PhaseInv s ↔ s.len = 64 ∧ ∃ g, Holds s g ∧ LegalUpTo g (8 * s.x.toNat + 8) ∧
      Emitted s g s.x.toNat ∧ PlaneAfter g s.x.toNat 8 0 s.lp ∧ PlaneAfter g s.x.toNat 8 1 s.hp := by
  simp only [PhaseInv, h]

theorem phaseInv_done_iff {s : State} (h : s.phase = .done) :
    PhaseInv s ↔ s.len = 64 ∧ ∃ g, Holds s g ∧ LegalUpTo g 64 ∧ Emitted s g 8 := by
  simp only [PhaseInv, h]

theorem phaseInv_fail_iff {s : State} (h : s.phase = .fail) :
    PhaseInv s ↔ (s.len ≠ 64 ∧ s.err = .length ∧ ∀ j, s.out.read j = none) ∨
      (s.len = 64 ∧ ∃ g k, Holds s g ∧ k < 64 ∧ LegalUpTo g k ∧ 3 < fetched g k ∧
        s.err = causeOf (fetched g k) ∧ Emitted s g (k / 8)) := by
  simp only [PhaseInv, h]

/-! The parts of it that speak of one buffer only. -/

theorem Holds.of_pix_eq {s t : State} {g : List Nat} (h : Holds s g) (hpix : t.pix = s.pix) : Holds t g := by
  unfold Holds
  rw [hpix]
  exact h

theorem Emitted.of_out_eq {s t : State} {g : List Nat} {n : Nat} (h : Emitted s g n)
    (hout : t.out = s.out) : Emitted t g n := by
  unfold Emitted
  rw [hout]
  exact h

/-- Before the first EMIT no byte of `OUT` is defined. -/
theorem emitted_zero {s : State} (h : ∀ j, s.out.read j = none) (g : List Nat) : Emitted s g 0 :=
  ⟨fun _ hx => absurd hx (Nat.not_lt_zero _), fun j _ => h j⟩

theorem legalUpTo_zero (g : List Nat) : LegalUpTo g 0 := fun _ hk => absurd hk (Nat.not_lt_zero _)

/-- After START of 64 words `PIX` holds them. -/
theorem holds_hostStart {g : List Nat} (hlen : g.length = 64) (s : State) : Holds (hostStart g s) g := by
  have htake : g.take Config.tilePixels = g := List.take_of_length_le (Nat.le_of_eq hlen)
  rw [Holds, hostStart_pix, htake, Memory.readList_zero_eq_some]
  exact ⟨hlen, fun j _ => Memory.read_ofList_zero g j⟩

/-! The canonical form of the buffers. -/

theorem State.buffersWf_iff (s : State) :
    s.buffersWf = true ↔ s.pix.wf 64 = true ∧ s.out.wf 16 = true := Bool.and_eq_true_iff

theorem coreEmit_out_wf {s : State} (h : s.out.wf 16 = true) : (coreEmit s).out.wf 16 = true := by
  rw [coreEmit_out]
  exact Memory.wf_write (highIndex s.x).isLt (Memory.wf_write (lowIndex s.x).isLt h)

theorem coreStep_buffersWf {s t : State} (h : coreStep s = .next t) (hs : s.buffersWf = true) :
    t.buffersWf = true := by
  rw [State.buffersWf_iff] at *
  rw [(coreStep_input h).2]
  rcases coreStep_out h with hout | ⟨-, rfl⟩
  · rw [hout]; exact hs
  · exact ⟨hs.1, coreEmit_out_wf hs.2⟩

theorem hostStart_buffersWf (grid : List Nat) (s : State) : (hostStart grid s).buffersWf = true :=
  (State.buffersWf_iff _).mpr ⟨Memory.wf_ofList (List.length_take_le _ _), rfl⟩

/-- Settles O38: RESET and START write fresh buffers, EMIT writes inside `OUT`, nothing else writes a buffer. -/
theorem stepKeepsBuffersCanonical : Obligations.StepKeepsBuffersCanonical := by
  intro s t hs h
  cases stepWas_of_step h with
  | core ts hstep => exact coreStep_buffersWf (s := { s with turns := ts }) hstep hs
  | reset rest _ => rfl
  | start grid rest _ _ => exact hostStart_buffersWf grid _
  | observe rest _ => exact hs
  | readResult rest r _ => exact hs

/-! Each step of the CORE, and START, keeps what the invariant says of the phase. -/

theorem phaseInv_hostStart (grid : List Nat) (s : State) : PhaseInv (hostStart grid s) := by
  rw [phaseInv_check_iff (hostStart_phase s grid)]
  exact ⟨fun _ => rfl, fun hlen => ⟨grid, holds_hostStart hlen s⟩⟩

theorem phaseInv_coreCheck {s : State} (hp : s.phase = .check) (h : PhaseInv s) :
    PhaseInv (coreCheck s) := by
  obtain ⟨hout, hpix⟩ := (phaseInv_check_iff hp).mp h
  rcases coreCheck_cases s with ⟨hlen, ht, hx, -⟩ | ⟨hlen, ht, -, herr⟩
  · obtain ⟨g, hg⟩ := hpix hlen
    rw [phaseInv_clear_iff ht, hx, coreCheck_len]
    exact ⟨hlen, g, hg.of_pix_eq (coreCheck_pix s), legalUpTo_zero g,
      (emitted_zero hout g).of_out_eq (coreCheck_out s)⟩
  · rw [phaseInv_fail_iff ht, coreCheck_len, coreCheck_out]
    exact .inl ⟨hlen, herr, hout⟩

theorem phaseInv_coreClear {s : State} (hp : s.phase = .clear) (h : PhaseInv s) :
    PhaseInv (coreClear s) := by
  obtain ⟨hlen, g, hg, hlegal, hout⟩ := (phaseInv_clear_iff hp).mp h
  rw [phaseInv_acc_iff (coreClear_phase s)]
  exact ⟨hlen, g, hg, hlegal, hout, planeAfter_clear g _ 0, planeAfter_clear g _ 1⟩

/-- The word at the position is the one at the position's place of the fetch order (R14). -/
theorem Holds.fetched_eq {s : State} {g : List Nat} {w : Nat} (hg : Holds s g)
    (hw : s.pix.read (8 * s.x.toNat + s.y.toNat) = some w) :
    fetched g (8 * s.x.toNat + (7 - s.y.toNat)) = w := by
  have hx := s.x.isLt
  have hy := s.y.isLt
  rw [fetched_position]
  exact Option.some.inj ((hg.read (by omega)).symm.trans hw)

/-- The place of the fetch order at which a bad word ends the run is that of the position. -/
theorem phaseInv_fail_of_acc {s : State} {w : Nat} {k : Cause} (hp : s.phase = .acc) (h : PhaseInv s)
    (hw : s.pix.read (8 * s.x.toNat + s.y.toNat) = some w) (hd : decodePair w = .error k) :
    PhaseInv (s.fail k) := by
  obtain ⟨hlen, g, hg, hlegal, hout, -, -⟩ := (phaseInv_acc_iff hp).mp h
  have hx := s.x.isLt
  have hy := s.y.isLt
  have hword := hg.fetched_eq hw
  obtain ⟨hbad, rfl⟩ := bad_of_decodePair_error hd
  rw [phaseInv_fail_iff (s.fail_phase _)]
  refine .inr ⟨hlen, g, 8 * s.x.toNat + (7 - s.y.toNat), hg, by omega, hlegal, ?_, ?_, ?_⟩
  · rw [hword]; exact hbad
  · rw [hword]; rfl
  · rw [show (8 * s.x.toNat + (7 - s.y.toNat)) / 8 = s.x.toNat by omega]
    exact hout

/-- A packed pixel extends the legal words and both planes by one place. -/
theorem phaseInv_packed {s : State} {w : Nat} {lo hi : Byte} (hp : s.phase = .acc) (h : PhaseInv s)
    (hw : s.pix.read (8 * s.x.toNat + s.y.toNat) = some w) (hd : decodePair w = .ok (lo, hi)) :
    PhaseInv (s.accumulate lo hi).finishPixel := by
  obtain ⟨hlen, g, hg, hlegal, hout, hlow, hhigh⟩ := (phaseInv_acc_iff hp).mp h
  have hx := s.x.isLt
  have hy := s.y.isLt
  obtain rfl := Option.some.inj ((hg.read (by omega)).symm.trans hw)
  obtain ⟨hleg, rfl, rfl⟩ := legal_of_decodePair_ok hd
  have hlegal' := hlegal.succ (by rwa [fetched_position])
  have hlow' := hlow.update (by omega)
  have hhigh' := hhigh.update (by omega)
  rw [show 7 - (7 - s.y.toNat) = s.y.toNat by omega] at hlow' hhigh'
  by_cases hy0 : s.y = 0
  · have hk : 7 - s.y.toNat + 1 = 8 := by rw [hy0]; rfl
    rw [Nat.add_assoc, hk] at hlegal'
    rw [hk] at hlow' hhigh'
    rw [State.finishPixel_of_zero (s := s.accumulate _ _) hy0]
    exact (phaseInv_emit_iff rfl).mpr ⟨hlen, g, hg, hlegal', hout, hlow', hhigh'⟩
  · have hk : 7 - s.y.toNat + 1 = 7 - (s.y - 1).toNat := by bv_omega
    rw [Nat.add_assoc, hk] at hlegal'
    rw [hk] at hlow' hhigh'
    rw [State.finishPixel_of_ne_zero (s := s.accumulate _ _) hy0]
    refine (phaseInv_acc_iff ?_).mpr ⟨hlen, g, hg, hlegal', hout, hlow', hhigh'⟩
    exact hp

theorem phaseInv_coreEmit {s : State} (hp : s.phase = .emit) (h : PhaseInv s) :
    PhaseInv (coreEmit s) := by
  obtain ⟨hlen, g, hg, hlegal, hout, hlow, hhigh⟩ := (phaseInv_emit_iff hp).mp h
  have hemitted := hout.emit hlow hhigh
  rcases coreEmit_cases s with ⟨hx, ht, -⟩ | ⟨-, ht, hx⟩
  · rw [hx] at hlegal hemitted
    rw [phaseInv_done_iff ht, coreEmit_len]
    exact ⟨hlen, g, hg.of_pix_eq (coreEmit_pix s), hlegal, hemitted⟩
  · rw [phaseInv_clear_iff ht, coreEmit_len, hx]
    exact ⟨hlen, g, hg.of_pix_eq (coreEmit_pix s), hlegal, hemitted⟩

/-- Every step of the CORE keeps the invariant. -/
theorem coreStep_inv {s t : State} (h : coreStep s = .next t) (hs : s.Inv) : t.Inv := by
  refine ⟨coreStep_buffersWf h hs.1, ?_⟩
  rcases coreStep_cases h with
    ⟨-, rfl⟩ | ⟨hp, rfl⟩ | ⟨hp, rfl⟩ | ⟨hp, w, hw, ⟨k, hd, rfl⟩ | ⟨lo, hi, hd, rfl⟩⟩ | ⟨hp, rfl⟩
  · exact hs.2
  · exact phaseInv_coreCheck hp hs.2
  · exact phaseInv_coreClear hp hs.2
  · exact phaseInv_fail_of_acc hp hs.2 hw hd
  · exact phaseInv_packed hp hs.2 hw hd
  · exact phaseInv_coreEmit hp hs.2

theorem hostStart_inv (grid : List Nat) (s : State) : (hostStart grid s).Inv :=
  ⟨hostStart_buffersWf grid s, phaseInv_hostStart grid s⟩

/-- Settles O39: both buffers are empty, and of IDLE the invariant says nothing. -/
theorem resetMeetsInvariant : Obligations.ResetMeetsInvariant := ⟨rfl, trivial⟩

/-- Settles O40: the CORE by `coreStep_inv`; RESET and START establish the invariant from any state; the turns and
the answers are no part of it. -/
theorem stepKeepsInvariant : Obligations.StepKeepsInvariant := by
  intro s t hs h
  cases stepWas_of_step h with
  | core ts hstep => exact coreStep_inv (s := { s with turns := ts }) hstep hs
  | reset rest _ => exact ⟨rfl, trivial⟩
  | start grid rest _ _ => exact hostStart_inv grid _
  | observe rest _ => exact hs
  | readResult rest r _ => exact hs

/-! Every step is taken. -/

/-- In ACC the word at the position is defined. -/
theorem pix_defined_of_acc {s : State} (hp : s.phase = .acc) (h : PhaseInv s) :
    ∃ w, s.pix.read (8 * s.x.toNat + s.y.toNat) = some w := by
  obtain ⟨-, g, hg, -⟩ := (phaseInv_acc_iff hp).mp h
  have hx := s.x.isLt
  have hy := s.y.isLt
  exact ⟨_, hg.read (by omega)⟩

/-- When all eight groups are emitted every byte of `OUT` is defined. -/
theorem Emitted.read_defined {s : State} {g : List Nat} (h : Emitted s g 8) {j : Nat} (hj : j < 16) :
    ∃ b, s.out.read j = some b := by
  obtain ⟨l, b, hl, hb, -, -⟩ := h.1 (j / 2) (by omega)
  rcases Nat.mod_two_eq_zero_or_one j with hj | hj
  · exact ⟨l, by rwa [show 2 * (j / 2) = j by omega] at hl⟩
  · exact ⟨b, by rwa [show 2 * (j / 2) + 1 = j by omega] at hb⟩

/-- With every byte of `OUT` defined there is a tile. -/
theorem exists_tile {s : State} (h : ∀ j < 16, ∃ b, s.out.read j = some b) : ∃ tile, s.tile = some tile := by
  refine ⟨(List.range 16).map fun j => (s.out.read j).getD 0, (tile_eq_some_iff s _).mpr ⟨by simp, ?_⟩⟩
  intro j hj
  obtain ⟨b, hb⟩ := h j hj
  simp [hj, hb]

/-- Where a run has ended there is a result to read. -/
theorem exists_result {s : State} (hp : s.phase = .done ∨ s.phase = .fail) (h : PhaseInv s) :
    ∃ r, s.result = some r := by
  rcases hp with hp | hp
  · obtain ⟨-, g, -, -, hout⟩ := (phaseInv_done_iff hp).mp h
    obtain ⟨tile, htile⟩ := exists_tile fun j hj => hout.read_defined hj
    exact ⟨.ok tile, by rw [result_of_done hp, htile]; rfl⟩
  · exact ⟨_, result_of_fail hp⟩

/-- Under the invariant the CORE's step is taken. -/
theorem coreStep_taken {s : State} (hs : s.Inv) : ∃ t, coreStep s = .next t := by
  cases hp : s.phase with
  | acc =>
    obtain ⟨w, hw⟩ := pix_defined_of_acc hp hs.2
    cases hd : decodePair w with
    | error k => exact ⟨_, coreStep_of_acc_error hp hw hd⟩
    | ok p => exact ⟨_, coreStep_of_acc_ok hp hw hd⟩
  | _ => simp [coreStep, hp]

/-- Under the invariant an enabled action of the host is taken. -/
theorem hostStep_taken {s : State} {a : HostAction} (ha : a.enabled s.phase = true) (hs : s.Inv) :
    ∃ t, hostStep a s = .next t := by
  cases a with
  | readResult =>
    obtain ⟨r, hr⟩ := exists_result ((readResult_enabled_iff _).mp ha) hs.2
    exact ⟨_, hostReadResult_of_some hr⟩
  | _ => exact ⟨_, rfl⟩

/-- Settles O41: by the turn that is next, which the invariant does not speak of. -/
theorem everyStepIsTaken : Obligations.EveryStepIsTaken := by
  intro s hs
  match hturns : s.turns with
  | [] =>
    rw [step_of_no_turn hturns]
    exact coreStep_taken hs
  | .core :: rest =>
    rw [step_of_core_turn hturns]
    exact coreStep_taken (s := { s with turns := rest }) hs
  | .host a :: rest =>
    cases ha : a.enabled s.phase with
    | true =>
      rw [step_of_enabled hturns ha]
      exact hostStep_taken (s := { s with turns := rest }) ha hs
    | false =>
      rw [step_of_disabled hturns ha]
      exact coreStep_taken hs

/-- A busy block's step changes `PHASE`, or it packs a pixel that is not the group's last and changes `Y`. -/
theorem coreStep_ne_self {s : State} (hbusy : s.ready = false) : coreStep s ≠ .next s := by
  intro h
  have hphase {p : Phase} (hp : s.phase = p) {t : State} (ht : s = t) : t.phase = p := ht ▸ hp
  rcases coreStep_cases h with ⟨hr, -⟩ | ⟨hp, ht⟩ | ⟨hp, ht⟩ | ⟨hp, w, -, ⟨k, -, ht⟩ | ⟨lo, hi, -, ht⟩⟩ | ⟨hp, ht⟩
  · rw [hbusy] at hr; cases hr
  · rcases coreCheck_cases s with ⟨-, hp', -⟩ | ⟨-, hp', -⟩ <;> cases hp'.symm.trans (hphase hp ht)
  · cases (coreClear_phase s).symm.trans (hphase hp ht)
  · cases (s.fail_phase k).symm.trans (hphase hp ht)
  · rcases packed_position hp lo hi with ⟨-, hp'⟩ | ⟨-, -, hy⟩
    · cases hp'.symm.trans (hphase hp ht)
    · rw [← ht] at hy; omega
  · rcases coreEmit_cases s with ⟨-, hp', -⟩ | ⟨-, hp', -⟩ <;> cases hp'.symm.trans (hphase hp ht)

/-- Settles O24: a ready block waits; a busy one does not stand still, and under the invariant its step is taken. -/
theorem readyBlockWaitsBusyBlockMoves : Obligations.ReadyBlockWaitsBusyBlockMoves := by
  refine fun s => ⟨coreStep_of_ready, coreStep_ne_self, fun hbusy hs => ?_⟩
  obtain ⟨t, ht⟩ := coreStep_taken hs
  exact ⟨t, fun h => coreStep_ne_self hbusy (h ▸ ht), ht⟩

end Sys2Proof.Machine
end

section
/-!
The operation as a function (spec/42_tile_sequencer.md R99, R101, R103, R104; spec/30_encoding.md R56): what
`encode_tile` gives by the length of the grid and its first bad word, and that it is a bijection.
-/

namespace Sys2Proof.Machine

/-- The word at position `y` of group `x` stands at place `8*x + (7 - y)` of the fetch order (R14). -/
theorem fetched_in_group (g : List Nat) (x : Nat) {y : Nat} (hy : y < 8) :
    fetched g (8 * x + (7 - y)) = g.getD (8 * x + y) 0 := by
  unfold fetched fetchIndex
  congr 1
  omega

/-- The words of a group that are fetched before place `n` are legal. -/
theorem LegalUpTo.getD_le {g : List Nat} {n : Nat} (h : LegalUpTo g n) {x y : Nat} (hy : y < 8)
    (hn : 8 * x + (7 - y) < n) : g.getD (8 * x + y) 0 ≤ 3 := by
  rw [← fetched_in_group g x hy]
  exact h _ hn

/-- Either all of the first `n` words fetched are legal, or one of them is the first bad one (R115). -/
theorem legalUpTo_or_first_bad (g : List Nat) (n : Nat) :
    LegalUpTo g n ∨ ∃ k < n, LegalUpTo g k ∧ 3 < fetched g k := by
  induction n with
  | zero => exact .inl (legalUpTo_zero g)
  | succ n ih =>
    rcases ih with hlegal | ⟨k, hk, hbad⟩
    · rcases Nat.lt_or_ge 3 (fetched g n) with hbad | hn
      · exact .inr ⟨n, Nat.lt_succ_self n, hlegal, hbad⟩
      · exact .inl (hlegal.succ hn)
    · exact .inr ⟨k, Nat.lt_succ_of_lt hk, hbad⟩

/-- A valid grid is one of 64 words that are legal in the order of fetching. -/
theorem validGrid_iff (g : List Nat) : validGrid g = true ↔ g.length = 64 ∧ LegalUpTo g 64 := by
  rw [validGrid, Bool.and_eq_true, beq_iff_eq, List.all_eq_true]
  refine and_congr_right fun hlen => ⟨fun h k hk => ?_, fun h w hw => ?_⟩
  · have hi : fetchIndex k < g.length := by unfold fetchIndex; rw [hlen, Config.tilePixels]; omega
    rw [fetched, List.getD_eq_getElem _ _ hi]
    exact (wordLegal_iff _).mp (h _ (List.getElem_mem hi))
  · obtain ⟨i, hi, rfl⟩ := List.mem_iff_getElem.mp hw
    rw [hlen, Config.tilePixels] at hi
    have := h.getD_le (x := i / 8) (y := i % 8) (by omega) (by omega)
    rw [Nat.div_add_mod, List.getD_eq_getElem _ _ (by omega)] at this
    exact (wordLegal_iff _).mpr this

/-! Tiles and their planes. -/

/-- The closed form of a whole plane byte (R35): bit `b` is the plane bit of position `7 - b`. -/
theorem planeAfter_eight_iff (g : List Nat) (x p : Nat) (a : Byte) :
    PlaneAfter g x 8 p a ↔ ∀ b < 8, a.getLsbD b = (g.getD (8 * x + 7 - b) 0).testBit p := by
  refine forall₂_congr fun b hb => ?_
  rw [show 8 * x + (15 - 8 - b) = 8 * x + 7 - b by omega, decide_eq_true (by omega), Bool.true_and]

/-- The closed form decides the byte. -/
theorem PlaneAfter.unique {g : List Nat} {x p : Nat} {a a' : Byte} (h : PlaneAfter g x 8 p a)
    (h' : PlaneAfter g x 8 p a') : a = a' :=
  BitVec.eq_of_getLsbD_eq fun b hb => (h b hb).trans (h' b hb).symm

/-- The bytes of the groups below `n`, low plane first, and nothing else (R35, R99). -/
def TileUpTo (g : List Nat) (n : Nat) (tile : List Byte) : Prop :=
  tile.length = 2 * n ∧ ∀ x < n, PlaneAfter g x 8 0 (tile.getD (2 * x) 0) ∧
    PlaneAfter g x 8 1 (tile.getD (2 * x + 1) 0)

theorem tileUpTo_zero (g : List Nat) : TileUpTo g 0 [] :=
  ⟨rfl, fun _ hx => absurd hx (Nat.not_lt_zero _)⟩

/-- Appending the two bytes of the next group. -/
theorem TileUpTo.append {g : List Nat} {n : Nat} {tile : List Byte} {l h : Byte} (ht : TileUpTo g n tile)
    (hl : PlaneAfter g n 8 0 l) (hh : PlaneAfter g n 8 1 h) : TileUpTo g (n + 1) (tile ++ [l, h]) := by
  obtain ⟨hlen, hplanes⟩ := ht
  refine ⟨by rw [List.length_append, hlen]; rfl, fun x hx => ?_⟩
  rcases Nat.lt_succ_iff_lt_or_eq.mp hx with hlt | rfl
  · rw [List.getD_append _ _ _ _ (by omega), List.getD_append _ _ _ _ (by omega)]
    exact hplanes x hlt
  · rw [List.getD_append_right _ _ _ _ (by omega), List.getD_append_right _ _ _ _ (by omega), hlen,
      Nat.sub_self, Nat.add_sub_cancel_left]
    exact ⟨hl, hh⟩

/-- Lists of sixteen bytes that agree in both bytes of every group are equal. -/
theorem tile_ext {t t' : List Byte} (ht : t.length = 16) (ht' : t'.length = 16)
    (h : ∀ x < 8, t.getD (2 * x) 0 = t'.getD (2 * x) 0 ∧ t.getD (2 * x + 1) 0 = t'.getD (2 * x + 1) 0) :
    t = t' := by
  refine List.ext_getElem (ht.trans ht'.symm) fun j hj hj' => ?_
  rw [← List.getD_eq_getElem t 0 hj, ← List.getD_eq_getElem t' 0 hj']
  obtain ⟨hlow, hhigh⟩ := h (j / 2) (by omega)
  rcases Nat.mod_two_eq_zero_or_one j with hpar | hpar
  · rwa [show 2 * (j / 2) = j by omega] at hlow
  · rwa [show 2 * (j / 2) + 1 = j by omega] at hhigh

/-- A grid has one tile. -/
theorem TileUpTo.unique {g : List Nat} {t t' : List Byte} (h : TileUpTo g 8 t) (h' : TileUpTo g 8 t') :
    t = t' :=
  tile_ext h.1 h'.1 fun x hx => ⟨(h.2 x hx).1.unique (h'.2 x hx).1, (h.2 x hx).2.unique (h'.2 x hx).2⟩

/-! What the function gives. -/

theorem packGroups_of_legal {g : List Nat} (hg : LegalUpTo g 64) :
    ∀ n x out, x + n = 8 → TileUpTo g x out → ∃ tile, packGroups g n x out = .ok tile ∧ TileUpTo g 8 tile := by
  intro n
  induction n with
  | zero =>
    rintro x out rfl hout
    exact ⟨out, rfl, hout⟩
  | succ n ih =>
    intro x out hx hout
    obtain ⟨l, h, hpack, hl, hh⟩ := packPositions_of_legal g x 8 0x00 0x00 (Nat.le_refl 8)
      (planeAfter_clear g x 0) (planeAfter_clear g x 1) fun y hy => hg.getD_le hy (by omega)
    simp only [packGroups, Config.groupPixels, hpack]
    exact ih (x + 1) _ (by omega) (hout.append hl hh)

/-- The groups before the one with the first bad word are packed and dropped. -/
theorem packGroups_of_bad {g : List Nat} {k : Nat} (hg : LegalUpTo g k) (hbad : 3 < fetched g k) :
    ∀ n x out, x ≤ k / 8 → k / 8 < x + n → packGroups g n x out = .err (causeOf (fetched g k)) := by
  intro n
  induction n with
  | zero => intro x out _ _; omega
  | succ n ih =>
    intro x out hx hn
    rcases Nat.lt_or_eq_of_le hx with hlt | rfl
    · obtain ⟨l, h, hpack, -, -⟩ := packPositions_of_legal g x 8 0x00 0x00 (Nat.le_refl 8)
        (planeAfter_clear g x 0) (planeAfter_clear g x 1) fun y hy => hg.getD_le hy (by omega)
      simp only [packGroups, Config.groupPixels, hpack]
      exact ih (x + 1) _ hlt (by omega)
    · have hword : fetched g k = g.getD (8 * (k / 8) + (7 - k % 8)) 0 := rfl
      rw [hword] at hbad ⊢
      have hpack := packPositions_of_bad g (k / 8) (7 - k % 8) hbad 8 0x00 0x00 (by omega)
        fun y hlow hy => hg.getD_le hy (by omega)
      simp only [packGroups, Config.groupPixels, hpack]

theorem encodeTile_of_length_ne {g : List Nat} (h : g.length ≠ 64) : encodeTile g = .err .length :=
  if_pos h

theorem encodeTile_of_length_eq {g : List Nat} (h : g.length = 64) :
    encodeTile g = packGroups g Config.groups 0 [] :=
  if_neg (not_not_intro h)

theorem encodeTile_of_legal {g : List Nat} (hlen : g.length = 64) (hg : LegalUpTo g 64) :
    ∃ tile, encodeTile g = .ok tile ∧ TileUpTo g 8 tile := by
  rw [encodeTile_of_length_eq hlen]
  exact packGroups_of_legal hg 8 0 [] rfl (tileUpTo_zero g)

theorem encodeTile_of_bad {g : List Nat} {k : Nat} (hlen : g.length = 64) (hk : k < 64)
    (hg : LegalUpTo g k) (hbad : 3 < fetched g k) : encodeTile g = .err (causeOf (fetched g k)) := by
  rw [encodeTile_of_length_eq hlen]
  exact packGroups_of_bad hg hbad 8 0 [] (Nat.zero_le _) (by omega)

/-- A tile comes of a valid grid only, and is the grid's. -/
theorem encodeTile_eq_ok_iff (g : List Nat) (tile : List Byte) :
    encodeTile g = .ok tile ↔ g.length = 64 ∧ LegalUpTo g 64 ∧ TileUpTo g 8 tile := by
  constructor
  · intro h
    have hlen : g.length = 64 := by
      by_contra hne
      cases (encodeTile_of_length_ne hne).symm.trans h
    rcases legalUpTo_or_first_bad g 64 with hg | ⟨k, hk, hg, hbad⟩
    · obtain ⟨tile', hok, htile⟩ := encodeTile_of_legal hlen hg
      cases hok.symm.trans h
      exact ⟨hlen, hg, htile⟩
    · cases (encodeTile_of_bad hlen hk hg hbad).symm.trans h
  · rintro ⟨hlen, hg, htile⟩
    obtain ⟨tile', hok, htile'⟩ := encodeTile_of_legal hlen hg
    rw [hok, htile.unique htile']

/-- A grid of 64 words never gives LENGTH. -/
theorem encodeTile_ne_length {g : List Nat} (hlen : g.length = 64) : encodeTile g ≠ .err .length := by
  rcases legalUpTo_or_first_bad g 64 with hg | ⟨k, hk, hg, hbad⟩
  · obtain ⟨tile, hok, -⟩ := encodeTile_of_legal hlen hg
    rw [hok]
    exact nofun
  · rw [encodeTile_of_bad hlen hk hg hbad]
    rcases causeOf_eq (fetched g k) with h | h <;> rw [h] <;> exact nofun

/-- Settles O42: valid grids by `encodeTile_of_legal`, and by the first bad word no other of 64 words. -/
theorem validGridsAndOnlyTheySucceed : Obligations.ValidGridsAndOnlyTheySucceed := by
  refine ⟨fun g => ?_, fun g tile h => ((encodeTile_eq_ok_iff g tile).mp h).2.2.1,
    fun g => ⟨fun h hlen => encodeTile_ne_length hlen h, encodeTile_of_length_ne⟩⟩
  rw [validGrid_iff]
  constructor
  · rintro ⟨hlen, hg⟩
    obtain ⟨tile, hok, -⟩ := encodeTile_of_legal hlen hg
    exact ⟨tile, hok⟩
  · rintro ⟨tile, hok⟩
    obtain ⟨hlen, hg, -⟩ := (encodeTile_eq_ok_iff g tile).mp hok
    exact ⟨hlen, hg⟩

/-- Settles O43: each byte has the closed form of a whole plane byte. -/
theorem tileClosedForm : Obligations.TileClosedForm := by
  intro g hvalid
  obtain ⟨hlen, hg⟩ := (validGrid_iff g).mp hvalid
  obtain ⟨tile, hok, htile⟩ := encodeTile_of_legal hlen hg
  refine ⟨tile, hok, htile.1, fun x hx b hb => ?_⟩
  obtain ⟨hlow, hhigh⟩ := htile.2 x hx
  exact ⟨(planeAfter_eight_iff g x 0 _).mp hlow b hb, (planeAfter_eight_iff g x 1 _).mp hhigh b hb⟩

/-- Settles O44: the groups before the bad word's are packed, and in its own the higher positions are legal. -/
theorem firstBadPixelDecidesTheCause : Obligations.FirstBadPixelDecidesTheCause :=
  fun _ _ => encodeTile_of_bad

/-! Back from a tile to its grid. -/

/-- The legal word with the plane bits `lo` and `hi`. -/
def wordOfBits (lo hi : Bool) : Nat := lo.toNat + 2 * hi.toNat

theorem wordOfBits_le (lo hi : Bool) : wordOfBits lo hi ≤ 3 := by
  revert lo hi; decide

@[simp] theorem testBit_zero_wordOfBits (lo hi : Bool) : (wordOfBits lo hi).testBit 0 = lo := by
  revert lo hi; decide

@[simp] theorem testBit_one_wordOfBits (lo hi : Bool) : (wordOfBits lo hi).testBit 1 = hi := by
  revert lo hi; decide

/-- A legal word is made of its two plane bits. -/
theorem eq_wordOfBits {w : Nat} (h : w ≤ 3) : w = wordOfBits (w.testBit 0) (w.testBit 1) := by
  interval_cases w <;> decide

/-- The grid of a tile: position `y` of group `x` takes bit `7 - y` of the group's two bytes (R35). -/
def gridOfTile (tile : List Byte) : List Nat :=
  (List.range 64).map fun i => wordOfBits ((tile.getD (2 * (i / 8)) 0).getLsbD (7 - i % 8))
    ((tile.getD (2 * (i / 8) + 1) 0).getLsbD (7 - i % 8))

theorem length_gridOfTile (tile : List Byte) : (gridOfTile tile).length = 64 := by
  simp [gridOfTile]

theorem getD_gridOfTile (tile : List Byte) {x b : Nat} (hx : x < 8) (hb : b < 8) :
    (gridOfTile tile).getD (8 * x + 7 - b) 0 =
      wordOfBits ((tile.getD (2 * x) 0).getLsbD b) ((tile.getD (2 * x + 1) 0).getLsbD b) := by
  have hlt : 8 * x + 7 - b < (gridOfTile tile).length := by rw [length_gridOfTile]; omega
  rw [List.getD_eq_getElem _ _ hlt]
  simp only [gridOfTile, List.getElem_map, List.getElem_range]
  rw [show (8 * x + 7 - b) / 8 = x by omega, show 7 - (8 * x + 7 - b) % 8 = b by omega]

/-- Index `i` is position `i % 8` of group `i / 8`, so its bit is `7 - i % 8`. -/
theorem index_eq_of_group (i : Nat) : 8 * (i / 8) + 7 - (7 - i % 8) = i := by omega

theorem legalUpTo_gridOfTile (tile : List Byte) : LegalUpTo (gridOfTile tile) 64 := by
  intro k hk
  have hindex : fetchIndex k = 8 * (k / 8) + 7 - k % 8 := by unfold fetchIndex; omega
  rw [fetched, hindex, getD_gridOfTile tile (by omega) (by omega)]
  exact wordOfBits_le _ _

theorem tileUpTo_gridOfTile {tile : List Byte} (hlen : tile.length = 16) :
    TileUpTo (gridOfTile tile) 8 tile := by
  refine ⟨hlen, fun x hx => ⟨?_, ?_⟩⟩
  · refine (planeAfter_eight_iff _ _ _ _).mpr fun b hb => ?_
    rw [getD_gridOfTile tile hx hb, testBit_zero_wordOfBits]
  · refine (planeAfter_eight_iff _ _ _ _).mpr fun b hb => ?_
    rw [getD_gridOfTile tile hx hb, testBit_one_wordOfBits]

/-- The words of a valid grid are made of the bits of its tile. -/
theorem eq_gridOfTile {g : List Nat} {tile : List Byte} (hlen : g.length = 64) (hg : LegalUpTo g 64)
    (htile : TileUpTo g 8 tile) : g = gridOfTile tile := by
  refine List.ext_getElem (hlen.trans (length_gridOfTile tile).symm) fun i hi hi' => ?_
  rw [← List.getD_eq_getElem g 0 hi, ← List.getD_eq_getElem _ 0 hi']
  obtain ⟨hlow, hhigh⟩ := htile.2 (i / 8) (by omega)
  have hlo := (planeAfter_eight_iff _ _ _ _).mp hlow (7 - i % 8) (by omega)
  have hhi := (planeAfter_eight_iff _ _ _ _).mp hhigh (7 - i % 8) (by omega)
  have hword := getD_gridOfTile tile (x := i / 8) (b := 7 - i % 8) (by omega) (by omega)
  have hlegal := hg.getD_le (x := i / 8) (y := i % 8) (by omega) (by omega)
  rw [Nat.div_add_mod] at hlegal
  rw [index_eq_of_group] at hlo hhi hword
  rw [hword, hlo, hhi]
  exact eq_wordOfBits hlegal

/-- Settles O45: the grid made of the tile's bits is the one. -/
theorem encodingIsABijection : Obligations.EncodingIsABijection := by
  intro tile hlen
  refine ⟨gridOfTile tile, ⟨?valid, ?encodes⟩, fun g' h => ?unique⟩
  case valid => exact (validGrid_iff _).mpr ⟨length_gridOfTile tile, legalUpTo_gridOfTile tile⟩
  case encodes =>
    exact (encodeTile_eq_ok_iff _ _).mpr
      ⟨length_gridOfTile tile, legalUpTo_gridOfTile tile, tileUpTo_gridOfTile hlen⟩
  case unique =>
    obtain ⟨hlen', hg', htile⟩ := (encodeTile_eq_ok_iff g' tile).mp h.2
    exact eq_gridOfTile hlen' hg' htile

end Sys2Proof.Machine
end

section
/-!
A run of the machine (spec/42_tile_sequencer.md R100, R102): its steps counted by the position, its result, and that
neither depends on what stood in the block before START.
-/

namespace Sys2Proof.Machine

/-! The length of a run, R100's table. -/

theorem runSteps_of_length_ne {g : List Nat} (h : g.length ≠ 64) : runSteps g = 1 := if_pos h

theorem runSteps_of_bad {g : List Nat} {k : Nat} (hlen : g.length = 64) (hk : k < 64)
    (hg : LegalUpTo g k) (hbad : 3 < fetched g k) : runSteps g = k + 1 + 2 * (k / 8) + 2 := by
  simp [runSteps, hlen, firstBad_eq_some hk hg hbad]

theorem runSteps_of_legal {g : List Nat} (hlen : g.length = 64) (hg : LegalUpTo g 64) :
    runSteps g = 81 := by
  simp [runSteps, hlen, firstBad_eq_none hg]

theorem runSteps_pos_le (g : List Nat) : 0 < runSteps g ∧ runSteps g ≤ 81 := by
  by_cases hlen : g.length = 64
  · rcases legalUpTo_or_first_bad g 64 with hg | ⟨k, hk, hg, hbad⟩
    · rw [runSteps_of_legal hlen hg]; decide
    · rw [runSteps_of_bad hlen hk hg hbad]; omega
  · rw [runSteps_of_length_ne hlen]; decide

/-- A run whose first `n` words are legal comes as far as the step after them. -/
theorem runSteps_ge_of_legal {g : List Nat} {n : Nat} (hlen : g.length = 64) (hn : LegalUpTo g n) :
    runSteps g = 81 ∨ n + 1 + 2 * (n / 8) + 2 ≤ runSteps g := by
  rcases legalUpTo_or_first_bad g 64 with hg | ⟨k, hk, hg, hbad⟩
  · exact .inl (runSteps_of_legal hlen hg)
  · right
    have hnk : n ≤ k := Nat.le_of_not_lt fun hlt => absurd (hn k hlt) (Nat.not_le_of_lt hbad)
    rw [runSteps_of_bad hlen hk hg hbad]
    omega

/-! A state of a run. -/

/-- The number of CORE steps taken since START, by the phase and the position of a busy block: one for CHECK, ten for
each finished group, and in a group one for CLEAR and one for each packed pixel. -/
def stepsTaken (s : State) : Nat :=
  match s.phase with
  | .clear => 1 + 10 * s.x.toNat
  | .acc => 2 + 10 * s.x.toNat + (7 - s.y.toNat)
  | .emit => 10 + 10 * s.x.toNat
  | _ => 0

theorem stepsTaken_of_check {s : State} (h : s.phase = .check) : stepsTaken s = 0 := by
  simp [stepsTaken, h]

theorem stepsTaken_of_clear {s : State} (h : s.phase = .clear) : stepsTaken s = 1 + 10 * s.x.toNat := by
  simp [stepsTaken, h]

theorem stepsTaken_of_acc {s : State} (h : s.phase = .acc) :
    stepsTaken s = 2 + 10 * s.x.toNat + (7 - s.y.toNat) := by
  simp [stepsTaken, h]

theorem stepsTaken_of_emit {s : State} (h : s.phase = .emit) : stepsTaken s = 10 + 10 * s.x.toNat := by
  simp [stepsTaken, h]

/-- The block meets the invariant and holds the input that START of `g` took. -/
structure RunOf (g : List Nat) (s : State) : Prop where
  inv : s.Inv
  len : s.len = g.length
  pix : s.pix = Memory.ofList 0 (g.take 64)

/-- The run has ended (R96). -/
def State.ended (s : State) : Prop := s.phase = .done ∨ s.phase = .fail

theorem State.ended.ready {s : State} (h : s.ended) : s.ready = true := (s.ready_iff).mpr (.inr h)

theorem State.ready_eq_false_iff (s : State) :
    s.ready = false ↔ s.phase = .check ∨ s.phase = .clear ∨ s.phase = .acc ∨ s.phase = .emit := by
  unfold State.ready
  cases s.phase <;> simp [Phase.ready]

namespace RunOf

variable {g : List Nat} {s t : State}

theorem start (g : List Nat) (s : State) : RunOf g (hostStart g s) := ⟨hostStart_inv g s, rfl, rfl⟩

theorem coreStep (h : RunOf g s) (hstep : coreStep s = .next t) : RunOf g t := by
  obtain ⟨hlen, hpix⟩ := coreStep_input hstep
  exact ⟨coreStep_inv hstep h.inv, hlen.trans h.len, hpix.trans h.pix⟩

/-- Of a full grid the buffer holds the grid of the run and no other. -/
theorem eq_of_holds {g' : List Nat} (h : RunOf g s) (hlen : s.len = 64) (hg' : Holds s g') :
    g.length = 64 ∧ g' = g := by
  have hglen : g.length = 64 := h.len.symm.trans hlen
  have hg : Holds s g := (holds_hostStart hglen s).of_pix_eq h.pix
  exact ⟨hglen, hg'.unique hg⟩

/-- A busy block has not taken all the steps of its run yet. -/
theorem stepsTaken_lt (h : RunOf g s) (hbusy : s.ready = false) : stepsTaken s < runSteps g := by
  have hx := s.x.isLt
  have hy := s.y.isLt
  rcases s.ready_eq_false_iff.mp hbusy with hp | hp | hp | hp
  · rw [stepsTaken_of_check hp]
    exact (runSteps_pos_le g).1
  · obtain ⟨hlen, g', hg', hlegal, -⟩ := (phaseInv_clear_iff hp).mp h.inv.2
    obtain ⟨hglen, rfl⟩ := h.eq_of_holds hlen hg'
    have := runSteps_ge_of_legal hglen hlegal
    rw [stepsTaken_of_clear hp]
    omega
  · obtain ⟨hlen, g', hg', hlegal, -⟩ := (phaseInv_acc_iff hp).mp h.inv.2
    obtain ⟨hglen, rfl⟩ := h.eq_of_holds hlen hg'
    have := runSteps_ge_of_legal hglen hlegal
    rw [stepsTaken_of_acc hp]
    omega
  · obtain ⟨hlen, g', hg', hlegal, -⟩ := (phaseInv_emit_iff hp).mp h.inv.2
    obtain ⟨hglen, rfl⟩ := h.eq_of_holds hlen hg'
    have := runSteps_ge_of_legal hglen hlegal
    rw [stepsTaken_of_emit hp]
    omega

/-- CHECK is the first step; it ends the run of a wrong length. -/
theorem check_progress (h : RunOf g s) (hp : s.phase = .check) :
    ((coreCheck s).ready = false ∧ stepsTaken (coreCheck s) = stepsTaken s + 1) ∨
      ((coreCheck s).ended ∧ runSteps g = stepsTaken s + 1) := by
  rw [stepsTaken_of_check hp]
  rcases coreCheck_cases s with ⟨-, ht, hx, -⟩ | ⟨hlen, ht, -⟩
  · refine .inl ⟨(State.ready_eq_false_iff _).mpr (.inr (.inl ht)), ?_⟩
    rw [stepsTaken_of_clear ht, hx]
    rfl
  · exact .inr ⟨.inr ht, runSteps_of_length_ne (h.len ▸ hlen)⟩

/-- A bad word ends the run with the step that fetches it. -/
theorem acc_fail_runSteps {w : Nat} {k : Cause} (h : RunOf g s) (hp : s.phase = .acc)
    (hw : s.pix.read (8 * s.x.toNat + s.y.toNat) = some w) (hd : decodePair w = .error k) :
    runSteps g = stepsTaken s + 1 := by
  have hx := s.x.isLt
  have hy := s.y.isLt
  obtain ⟨hlen, g', hg', hlegal, -⟩ := (phaseInv_acc_iff hp).mp h.inv.2
  obtain ⟨hglen, rfl⟩ := h.eq_of_holds hlen hg'
  have hbad := (bad_of_decodePair_error hd).1
  rw [← hg'.fetched_eq hw] at hbad
  rw [runSteps_of_bad hglen (by omega) hlegal hbad, stepsTaken_of_acc hp]
  omega

/-- A packed pixel is one step, and does not end the run. -/
theorem packed_progress (hp : s.phase = .acc) (lo hi : Byte) :
    (s.accumulate lo hi).finishPixel.ready = false ∧
      stepsTaken (s.accumulate lo hi).finishPixel = stepsTaken s + 1 := by
  have hy := s.y.isLt
  rw [State.ready_eq_false_iff, stepsTaken_of_acc hp]
  rcases packed_position hp lo hi with ⟨hy0, ht⟩ | ⟨-, ht, hy'⟩
  · refine ⟨.inr (.inr (.inr ht)), ?_⟩
    rw [stepsTaken_of_emit ht, State.finishPixel_x, State.accumulate_x, hy0]
    exact Nat.add_right_comm 2 8 _
  · refine ⟨.inr (.inr (.inl ht)), ?_⟩
    rw [stepsTaken_of_acc ht, State.finishPixel_x, State.accumulate_x]
    omega

/-- EMIT ends the run of a valid grid after the last group. -/
theorem emit_progress (h : RunOf g s) (hp : s.phase = .emit) :
    ((coreEmit s).ready = false ∧ stepsTaken (coreEmit s) = stepsTaken s + 1) ∨
      ((coreEmit s).ended ∧ runSteps g = stepsTaken s + 1) := by
  rw [stepsTaken_of_emit hp]
  rcases coreEmit_cases s with ⟨hx, ht, -⟩ | ⟨-, ht, hx⟩
  · obtain ⟨hlen, g', hg', hlegal, -⟩ := (phaseInv_emit_iff hp).mp h.inv.2
    obtain ⟨hglen, rfl⟩ := h.eq_of_holds hlen hg'
    rw [hx] at hlegal ⊢
    exact .inr ⟨.inl ht, runSteps_of_legal hglen hlegal⟩
  · refine .inl ⟨(State.ready_eq_false_iff _).mpr (.inr (.inl ht)), ?_⟩
    rw [stepsTaken_of_clear ht, hx]
    omega

/-- A busy block's step is counted, or it ends the run with the last step of R100's table. -/
theorem progress (h : RunOf g s) (hbusy : s.ready = false) (hstep : Machine.coreStep s = .next t) :
    (t.ready = false ∧ stepsTaken t = stepsTaken s + 1) ∨
      (t.ended ∧ runSteps g = stepsTaken s + 1) := by
  rcases coreStep_cases hstep with
    ⟨hr, -⟩ | ⟨hp, rfl⟩ | ⟨hp, rfl⟩ | ⟨hp, w, hw, ⟨k, hd, rfl⟩ | ⟨lo, hi, hd, rfl⟩⟩ | ⟨hp, rfl⟩
  · rw [hbusy] at hr; cases hr
  · exact h.check_progress hp
  · refine .inl ⟨rfl, ?_⟩
    rw [stepsTaken_of_clear hp, stepsTaken_of_acc (coreClear_phase s), coreClear_x, coreClear_y]
    exact Nat.add_right_comm 1 1 _
  · exact .inr ⟨.inr (s.fail_phase k), h.acc_fail_runSteps hp hw hd⟩
  · exact .inl (packed_progress hp lo hi)
  · exact h.emit_progress hp

end RunOf

/-! The result of a run. -/

/-- A tile read from the emitted bytes is the grid's. -/
theorem Emitted.tileUpTo {s : State} {g : List Nat} {tile : List Byte} (h : Emitted s g 8)
    (ht : s.tile = some tile) : TileUpTo g 8 tile := by
  obtain ⟨hlen, hall⟩ := (tile_eq_some_iff s tile).mp ht
  refine ⟨hlen, fun x hx => ?_⟩
  obtain ⟨l, b, hl, hb, hlow, hhigh⟩ := h.1 x hx
  rw [hall _ (by omega)] at hl hb
  rw [List.getD_eq_getElem?_getD, List.getD_eq_getElem?_getD, hl, hb]
  exact ⟨hlow, hhigh⟩

/-- A run that has ended hands over what the function gives (R100). -/
theorem RunOf.result_eq {g : List Nat} {s : State} (h : RunOf g s) (hend : s.ended) :
    s.result = some (encodeTile g) := by
  rcases hend with hp | hp
  · obtain ⟨hlen, g', hg', hlegal, hout⟩ := (phaseInv_done_iff hp).mp h.inv.2
    obtain ⟨hglen, rfl⟩ := h.eq_of_holds hlen hg'
    obtain ⟨tile, htile⟩ := exists_tile fun j hj => hout.read_defined hj
    rw [result_of_done hp, htile, (encodeTile_eq_ok_iff g' tile).mpr ⟨hglen, hlegal, hout.tileUpTo htile⟩]
    rfl
  · rw [result_of_fail hp]
    rcases (phaseInv_fail_iff hp).mp h.inv.2 with ⟨hlen, herr, -⟩ | ⟨hlen, g', k, hg', hk, hlegal, hbad, herr, -⟩
    · rw [herr, encodeTile_of_length_ne (h.len ▸ hlen)]
    · obtain ⟨hglen, rfl⟩ := h.eq_of_holds hlen hg'
      rw [herr, encodeTile_of_bad hglen hk hlegal hbad]

/-- The `STATUS` that goes with a result (R18). -/
def Result.status : Result → Status
  | .ok _ => .done
  | .err k => Cause.status k

theorem State.ended.status_eq {s : State} {r : Result} (h : s.ended) (hr : s.result = some r) :
    s.status = r.status := by
  rcases h with hp | hp
  · rw [result_of_done hp] at hr
    obtain ⟨tile, -, rfl⟩ := Option.map_eq_some_iff.mp hr
    simp [State.status, hp, Result.status]
  · rw [result_of_fail hp] at hr
    cases hr
    simp [State.status, hp, Result.status]

/-! The steps of a run. -/

/-- No turn is listed, or a READ_RESULT, which waits for the end of the run (log 7). -/
def State.hostWaits (s : State) : Prop := s.turns = [] ∨ s.turns = [.host .readResult]

/-- While the block is busy and the host waits, the CORE moves. -/
theorem step_of_busy {s : State} (hbusy : s.ready = false) (hwait : s.hostWaits) : step s = coreStep s := by
  rcases hwait with h | h
  · exact step_of_no_turn h
  · refine step_of_disabled h (Bool.eq_false_iff.mpr fun hen => ?_)
    have hready : s.ready = true := State.ended.ready ((readResult_enabled_iff _).mp hen)
    rw [hbusy] at hready
    cases hready

/-- After `m` steps of the run of `g`: `m` are counted and the block is busy, or the run has ended. -/
structure RunAt (g : List Nat) (m : Nat) (s : State) : Prop where
  runOf : RunOf g s
  counted : (s.ready = false ∧ stepsTaken s = m) ∨ (s.ended ∧ runSteps g = m)

theorem RunAt.busy_of_lt {g : List Nat} {m : Nat} {s : State} (h : RunAt g m s) (hm : m < runSteps g) :
    s.ready = false ∧ stepsTaken s = m :=
  h.counted.resolve_right fun hend => absurd hend.2 (Nat.ne_of_gt hm)

theorem RunAt.ended_of_ready {g : List Nat} {m : Nat} {s : State} (h : RunAt g m s)
    (hr : s.ready = true) : s.ended :=
  (h.counted.resolve_left fun hbusy => by rw [hbusy.1] at hr; cases hr).1

theorem RunAt.ended_at_runSteps {g : List Nat} {s : State} (h : RunAt g (runSteps g) s) : s.ended :=
  (h.counted.resolve_left fun hbusy => absurd hbusy.2 (Nat.ne_of_lt (h.runOf.stepsTaken_lt hbusy.1))).1

/-- Up to the number of steps of R100's table a run goes on, whatever stood in the block before START. -/
theorem run_hostStart (g : List Nat) {s : State} (hwait : s.hostWaits) :
    ∀ m ≤ runSteps g, ∃ t, (hostStart g s).run m = .next t ∧ RunAt g m t ∧
      t.turns = s.turns ∧ t.answers = s.answers := by
  intro m
  induction m with
  | zero => exact fun _ => ⟨_, rfl, ⟨RunOf.start g s, .inl ⟨rfl, rfl⟩⟩, rfl, rfl⟩
  | succ m ih =>
    intro hm
    obtain ⟨t, hrun, hat, hturns, hanswers⟩ := ih (by omega)
    obtain ⟨hbusy, hcount⟩ := hat.busy_of_lt hm
    obtain ⟨u, hu⟩ := coreStep_taken hat.runOf.inv
    have hwait' : t.hostWaits := by rwa [State.hostWaits, hturns]
    have hstep : step t = .next u := (step_of_busy hbusy hwait').trans hu
    have hprogress := hat.runOf.progress hbusy hu
    rw [hcount] at hprogress
    obtain ⟨hturns', hanswers', -⟩ := coreStep_host hu
    exact ⟨u, by rw [State.run_succ, hrun]; exact hstep, ⟨hat.runOf.coreStep hu, hprogress⟩,
      hturns'.trans hturns, hanswers'.trans hanswers⟩

/-- After its last step a run has ended with the function's result. -/
theorem run_hostStart_ended (g : List Nat) {s : State} (hwait : s.hostWaits) :
    ∃ t, (hostStart g s).run (runSteps g) = .next t ∧ t.ended ∧ t.result = some (encodeTile g) ∧
      t.turns = s.turns ∧ t.answers = s.answers := by
  obtain ⟨t, hrun, hat, hturns, hanswers⟩ := run_hostStart g hwait (runSteps g) (Nat.le_refl _)
  have hend := hat.ended_at_runSteps
  exact ⟨t, hrun, hend, hat.runOf.result_eq hend, hturns, hanswers⟩

/-- With no turn to come, every ready state of a run is one at which it has ended, with the function's result. -/
theorem ended_of_run_ready {g : List Nat} {s t : State} {n : Nat} (hs : s.turns = [])
    (hrun : (hostStart g s).run n = .next t) (hr : t.ready = true) :
    t.ended ∧ t.result = some (encodeTile g) := by
  rcases Nat.le_total n (runSteps g) with hn | hn
  · obtain ⟨t', hrun', hat, -⟩ := run_hostStart g (.inl hs) n hn
    cases hrun'.symm.trans hrun
    have hend := hat.ended_of_ready hr
    exact ⟨hend, hat.runOf.result_eq hend⟩
  · obtain ⟨t', hrun', hend, hresult, hturns, -⟩ := run_hostStart_ended g (.inl hs)
    have hrest := State.run_add hrun' (n - runSteps g)
    rw [Nat.add_sub_cancel' hn, hrun, State.run_of_ready hend.ready (hturns.trans hs)] at hrest
    cases hrest
    exact ⟨hend, hresult⟩

/-- Settles O46: START, the steps of the run, and the READ_RESULT that stood until its end. -/
theorem runComputesEncodeTile : Obligations.RunComputesEncodeTile := by
  intro s g hr hs
  have hstart := step_of_start hr hs
  obtain ⟨t, hrun, hend, hresult, hturns, hanswers⟩ :=
    run_hostStart_ended g (s := { s with turns := [.host .readResult] }) (.inr rfl)
  have hread := (step_of_readResult hturns hend).trans (hostReadResult_of_some hresult)
  refine ⟨runSteps g + 1 + 1, by have := (runSteps_pos_le g).2; omega,
    State.answer { t with turns := [] } (.result (encodeTile g)), ?_, rfl, hend.ready, hresult, ?_⟩
  · rw [State.run_of_step hstart, State.run_succ, hrun]
    exact hread
  · exact congrArg (· ++ [Answer.result (encodeTile g)]) hanswers

/-- Settles O47: before the last step the block is busy by the count of its steps, at it the run has ended. -/
theorem runEndsAfterTheStatedSteps : Obligations.RunEndsAfterTheStatedSteps := by
  intro s g _ hs
  refine ⟨fun m hm => ?before, ?after, (runSteps_pos_le g).2⟩
  case before =>
    obtain ⟨t, hrun, hat, -⟩ := run_hostStart g (.inl hs) m (Nat.le_of_lt hm)
    exact ⟨t, hrun, (hat.busy_of_lt hm).1⟩
  case after =>
    obtain ⟨t, hrun, hend, -⟩ := run_hostStart_ended g (.inl hs)
    exact ⟨t, hrun, hend⟩

/-- Settles O48: either run has ended with the function's result, which the grid alone decides. -/
theorem runsAreIndependentOfThePast : Obligations.RunsAreIndependentOfThePast := by
  intro s₁ s₂ g n₁ n₂ t₁ t₂ _ _ hs₁ hs₂ hrun₁ hrun₂ hr₁ hr₂
  obtain ⟨hend₁, hresult₁⟩ := ended_of_run_ready hs₁ hrun₁ hr₁
  obtain ⟨hend₂, hresult₂⟩ := ended_of_run_ready hs₂ hrun₂ hr₂
  exact ⟨hresult₁.trans hresult₂.symm, (hend₁.status_eq hresult₁).trans (hend₂.status_eq hresult₂).symm⟩

end Sys2Proof.Machine
end
